-- ==== Sys2Proof/Word.lean ====
section
/-! DEFINITION. The widths of HSB's registers and the plain bit operations on them (00_scope.md R9 to R11). -/

namespace Sys2Proof

/-- A 32-bit pattern: an operand register, a command word, the host view of a register (R30, R107, R130). -/
abbrev Word := BitVec 32

/-- A 16-bit pattern: int16 and uint16 registers and the fields of the frames (R6, R11). -/
abbrev Half := BitVec 16

/-- One byte of RXBUF or TXBUF (R103 to R105). -/
abbrev Byte := BitVec 8

/-- A byte offset in the 4096-byte host window: all 12 bits are decoded (R101). -/
abbrev Offset := BitVec 12

end Sys2Proof
end

