-- ==== Sys2Proof/Config.lean ====
section
/-! DEFINITION. What is fixed for the block: the constants the spec states (R7, R37, R42), the two parameters it leaves
open (R7, D2, D16) and the free value of U1. -/

namespace Sys2Proof.Config

/-- FREE VALUE (U1, R43): what the k-th read of an unwritten must-write register returns, before it is cut to the
register's width. It has no value a proof could use, so a claim holds for every one. Log entries 3 and 4. -/
opaque unspecified : Nat → Word

/-- The page number of the window on the platform's bus, an OPEN parameter (R101, D2). Log entry 9. -/
opaque hsbPage : Nat

/-- HSB_BASE (R101): "any 4 KiB-aligned platform address" (D2). -/
def hsbBase : Nat := 4096 * hsbPage

/-- TICK_PERIOD (R7, D16), an OPEN parameter of the environment: the block never reads it (R422). Log entry 9. -/
opaque tickPeriod : Nat

/-- ID, "HSB" and block revision 1 (R2, R37). -/
def idValue : Word := 0x48534201#32

/-- The reset value of CTRL: SRC = FBEN = MIRROR = 1, PROFILE = NORMAL (R41). -/
def ctrlReset : BitVec 5 := 0x07#5

/-- −1000, the reset value of CMD_MIN (R42). -/
def cmdMinReset : Half := 0xFC18#16

/-- 1000, the reset value of CMD_MAX (R42). -/
def cmdMaxReset : Half := 0x03E8#16

/-- The reset value of STANDSTILL (R42). -/
def standstillReset : Half := 20#16

/-- The reset value of REV_CUE (R42). -/
def revCueReset : Half := 20#16

/-- The reset value of SER_TIMEOUT (R42). -/
def serTimeoutReset : Half := 25#16

/-- The reset value of PO_STEPS (R42). -/
def poStepsReset : BitVec 8 := 8#8

/-- The dead-band, the gate's slew bound and the inactivity magnitude: "50, fixed" (R7, R277, R302, R312). -/
def smallBound : Int := 50

/-- The feedback cadence divisor: "20 ticks, fixed" (R7, R360). -/
def feedbackDivisor : Nat := 20

end Sys2Proof.Config
end

