-- ==== Sys2Proof/Syntax.lean ====
section
/-! DEFINITION. The commands of spec/opcode_table.json, the names of the registers of the host window, and the lines of
the assembler with its pseudo-commands (30_encoding.md, 10_state.md). -/

namespace Sys2Proof

/-- A 3-bit register field: value i names Ri, and "any field value 0–7 is legal" (R132). -/
abbrev Reg := Fin 8

/-- The sixteen commands (R134), operands in the order of the assembler (R138). -/
inductive Instr where
  | nop
  | lpf16 (rd ra rb : Reg)
  | lpf32 (rd ra rb : Reg)
  | rl16 (rd ra rb : Reg)
  | mixr (rd ra rb rc : Reg)
  | mixl (rd ra rb rc : Reg)
  | sat16 (rd ra : Reg)
  | xor16 (rd ra rb : Reg)
  | frmchk (rd : Reg)
  | li (rd : Reg) (imm : Half)
  | lui (rd : Reg) (imm : Half)
  | mov (rd ra : Reg)
  | ldr (r : Reg) (off : Offset)
  | str (r : Reg) (off : Offset)
  | tick
  | swreset
  deriving DecidableEq, Repr

/-- The seventeen must-write configuration registers, in the order of their CFGVALID index (R42, R43). -/
inductive MustReg where
  | rate | filtCoef | filtCoefBrake | tempCoef | speedGainNormal | speedGainTurbo | steerGain | tempWarn | tempOff
  | batSlow | batFast | batDead | inactTicks | startSent | consumedSent | tcalMul | tcalAdd
  deriving DecidableEq, Repr

/-- The registers of the host window (R101), one for each mapped 32-bit offset. -/
inductive HostReg where
  | x (i : Reg)
  | cmd | status | errCmd | cfgValid | irqEn | irqPend | rstFlags | ident
  | ctrl
  | must (m : MustReg)
  | cmdMin | cmdMax | standstill | revCue | serTimeout | poSteps
  | toneTab (k : Fin 6)
  | rlSteer | rlSpeed | lpfSteer | lpfSpeed | tempFilt
  | tempDegc | steerCmd | speedCmd | mixR | mixL | cmd1 | cmd2 | serCnt | link | inactCnt | fbDiv | tickCnt | sup
  | speedAvg
  | inSteer | inSpeed | inFlags | inMeasR | inMeasL | inErr | inTempRaw | inBat
  | tgtR | tgtL | outFlags | buz
  | rxWord (j : Fin 2)
  | txWord (j : Fin 5)
  deriving DecidableEq, Repr

/-- A line of the assembler (R138) or a pseudo-command (R139). The operands are what a programmer writes, so a register
number, an immediate or an offset can be out of range: Asm.wellFormed checks it. -/
inductive Asm where
  | nop
  | lpf16 (rd ra rb : Nat)
  | lpf32 (rd ra rb : Nat)
  | rl16 (rd ra rb : Nat)
  | mixr (rd ra rb rc : Nat)
  | mixl (rd ra rb rc : Nat)
  | sat16 (rd ra : Nat)
  | xor16 (rd ra rb : Nat)
  | frmchk (rd : Nat)
  | li (rd : Nat) (imm : Int)
  | lui (rd : Nat) (imm : Int)
  | mov (rd ra : Nat)
  | ldr (rd off : Nat)
  | str (rs off : Nat)
  | ldrName (rd : Nat) (name : HostReg)
  | strName (rs : Nat) (name : HostReg)
  | tick
  | swreset
  | li32 (rd : Nat) (v : Int)
  | clr (rd : Nat)
  | wcfg (name : HostReg) (v : Int)
  deriving DecidableEq, Repr

end Sys2Proof
end

