-- ==== Sys2Proof/WellFormed.lean ====
section
/-! DEFINITION. Which terms of the syntax are legal (R132, R138, R139). A term of Instr is legal by its types: a register
field is one of eight, an immediate has 16 bits, an offset 12, and the spec admits each of those values (R132, R133). A
line of the assembler is written with unbounded numbers, and is checked here. -/

namespace Sys2Proof

/-- A register is written R0–R7 (R138). -/
def regOk (r : Nat) : Bool := decide (r < 8)

/-- An immediate of LI or LUI is an integer in −32768..65535 (R138). -/
def immOk (v : Int) : Bool := decide (-32768 ≤ v ∧ v ≤ 65535)

/-- An offset of LDR or STR is a byte offset 0..0xFFF (R138). -/
def offOk (off : Nat) : Bool := decide (off ≤ 0xFFF)

/-- The value of LI32 or WCFG is any 32-bit value, signed or unsigned (R139). -/
def valueOk (v : Int) : Bool := decide (-2147483648 ≤ v ∧ v ≤ 4294967295)

/-- The legal lines of the assembler (R138, R139). -/
def Asm.wellFormed : Asm → Bool
  | .nop => true
  | .lpf16 rd ra rb => regOk rd && regOk ra && regOk rb
  | .lpf32 rd ra rb => regOk rd && regOk ra && regOk rb
  | .rl16 rd ra rb => regOk rd && regOk ra && regOk rb
  | .mixr rd ra rb rc => regOk rd && regOk ra && regOk rb && regOk rc
  | .mixl rd ra rb rc => regOk rd && regOk ra && regOk rb && regOk rc
  | .sat16 rd ra => regOk rd && regOk ra
  | .xor16 rd ra rb => regOk rd && regOk ra && regOk rb
  | .frmchk rd => regOk rd
  | .li rd imm => regOk rd && immOk imm
  | .lui rd imm => regOk rd && immOk imm
  | .mov rd ra => regOk rd && regOk ra
  | .ldr rd off => regOk rd && offOk off
  | .str rs off => regOk rs && offOk off
  | .ldrName rd _ => regOk rd
  | .strName rs _ => regOk rs
  | .tick => true
  | .swreset => true
  | .li32 rd v => regOk rd && valueOk v
  | .clr rd => regOk rd
  | .wcfg _ v => valueOk v

end Sys2Proof
end

