-- ==== Sys2Proof/Decode.lean ====
section
/-! DEFINITION. The opcode table, the decoder, the encoder, the offsets of the host window and the assembler's expansion
(30_encoding.md R130 to R140, 20_memory.md R101). The decoder is total: a word of no row is rejected by name. -/

namespace Sys2Proof

/-! ## Fields of a command word -/

/-- Bits 31:26, the opcode, "which alone selects the format" (R130). -/
def opcodeOf (w : Word) : BitVec 6 := w.extractLsb' 26 6

/-- Bits 25:23: rd, or r in format M (R131). -/
def fieldD (w : Word) : Reg := (w.extractLsb' 23 3).toFin

/-- Bits 22:20: ra (R131). -/
def fieldA (w : Word) : Reg := (w.extractLsb' 20 3).toFin

/-- Bits 19:17: rb (R131). -/
def fieldB (w : Word) : Reg := (w.extractLsb' 17 3).toFin

/-- Bits 16:14: rc (R131). -/
def fieldC (w : Word) : Reg := (w.extractLsb' 14 3).toFin

/-- Bits 15:0: imm16 (R131, R133). -/
def fieldImm (w : Word) : Half := w.extractLsb' 0 16

/-- Bits 11:0: off12 (R131, R133). -/
def fieldOff (w : Word) : Offset := w.extractLsb' 0 12

/-! ## The decoder -/

/-- Why a word is illegal; both raise E_ILLEGAL (R135, R136). Closed: the decoder has no other way to reject a word. -/
inductive Illegal where
  /-- An opcode of no row (R136). -/
  | undefinedOpcode
  /-- A defined opcode with a 1 in a bit its row marks as zero (R135). -/
  | reservedBits
  deriving DecidableEq, Repr

/-- The instruction, if the bits its row marks as zero are 0 (R135). -/
def ifZero {n : Nat} (zero : BitVec n) (i : Instr) : Except Illegal Instr :=
  if zero = 0#n then .ok i else .error .reservedBits

/-- Decodes a command word (R134 to R136): the opcode selects the row, whose zero field is then checked. -/
def decode (w : Word) : Except Illegal Instr :=
  match opcodeOf w with
  | 0x00#6 => ifZero (w.extractLsb' 0 26) .nop
  | 0x01#6 => ifZero (w.extractLsb' 0 17) (.lpf16 (fieldD w) (fieldA w) (fieldB w))
  | 0x02#6 => ifZero (w.extractLsb' 0 17) (.lpf32 (fieldD w) (fieldA w) (fieldB w))
  | 0x03#6 => ifZero (w.extractLsb' 0 17) (.rl16 (fieldD w) (fieldA w) (fieldB w))
  | 0x04#6 => ifZero (w.extractLsb' 0 14) (.mixr (fieldD w) (fieldA w) (fieldB w) (fieldC w))
  | 0x05#6 => ifZero (w.extractLsb' 0 14) (.mixl (fieldD w) (fieldA w) (fieldB w) (fieldC w))
  | 0x06#6 => ifZero (w.extractLsb' 0 20) (.sat16 (fieldD w) (fieldA w))
  | 0x07#6 => ifZero (w.extractLsb' 0 17) (.xor16 (fieldD w) (fieldA w) (fieldB w))
  | 0x08#6 => ifZero (w.extractLsb' 0 23) (.frmchk (fieldD w))
  | 0x10#6 => ifZero (w.extractLsb' 16 7) (.li (fieldD w) (fieldImm w))
  | 0x11#6 => ifZero (w.extractLsb' 16 7) (.lui (fieldD w) (fieldImm w))
  | 0x12#6 => ifZero (w.extractLsb' 0 20) (.mov (fieldD w) (fieldA w))
  | 0x13#6 => ifZero (w.extractLsb' 12 11) (.ldr (fieldD w) (fieldOff w))
  | 0x14#6 => ifZero (w.extractLsb' 12 11) (.str (fieldD w) (fieldOff w))
  | 0x20#6 => ifZero (w.extractLsb' 0 26) .tick
  | 0x21#6 => ifZero (w.extractLsb' 0 26) .swreset
  | _ => .error .undefinedOpcode

/-- The instruction the decoder reads from the low nbits bits of w. A command is one 32-bit word (R130), so there is no
order of words or bytes to lay out: the word is what the host writes to CMD. -/
def decodeTableWord (nbits w : Nat) : Option Instr :=
  match decode (BitVec.ofNat 32 (w % 2 ^ nbits)) with
  | .ok i => some i
  | .error _ => none

/-! ## The encoder -/

/-- Format R: opcode, rd, ra, rb, rc, fourteen zeros (R131). -/
def formatR (op : BitVec 6) (rd ra rb rc : Reg) : Word :=
  op ++ BitVec.ofFin (w := 3) rd ++ BitVec.ofFin (w := 3) ra ++ BitVec.ofFin (w := 3) rb ++ BitVec.ofFin (w := 3) rc ++ 0#14

/-- Format I: opcode, rd, seven zeros, imm16 (R131). -/
def formatI (op : BitVec 6) (rd : Reg) (imm : Half) : Word :=
  op ++ BitVec.ofFin (w := 3) rd ++ 0#7 ++ imm

/-- Format M: opcode, r, eleven zeros, off12 (R131). -/
def formatM (op : BitVec 6) (r : Reg) (off : Offset) : Word :=
  op ++ BitVec.ofFin (w := 3) r ++ 0#11 ++ off

/-- Format N: opcode and twenty-six zeros (R131). -/
def formatN (op : BitVec 6) : Word :=
  op ++ 0#26

/-- The command word of an instruction; a register field its row does not use is zero (R134, R135). -/
def encode : Instr → Word
  | .nop => formatN 0x00#6
  | .lpf16 rd ra rb => formatR 0x01#6 rd ra rb 0
  | .lpf32 rd ra rb => formatR 0x02#6 rd ra rb 0
  | .rl16 rd ra rb => formatR 0x03#6 rd ra rb 0
  | .mixr rd ra rb rc => formatR 0x04#6 rd ra rb rc
  | .mixl rd ra rb rc => formatR 0x05#6 rd ra rb rc
  | .sat16 rd ra => formatR 0x06#6 rd ra 0 0
  | .xor16 rd ra rb => formatR 0x07#6 rd ra rb 0
  | .frmchk rd => formatR 0x08#6 rd 0 0 0
  | .li rd imm => formatI 0x10#6 rd imm
  | .lui rd imm => formatI 0x11#6 rd imm
  | .mov rd ra => formatR 0x12#6 rd ra 0 0
  | .ldr r off => formatM 0x13#6 r off
  | .str r off => formatM 0x14#6 r off
  | .tick => formatN 0x20#6
  | .swreset => formatN 0x21#6

/-! ## The opcode table -/

/-- One row of the opcode map of R134. -/
structure OpcodeRow where
  mnemonic : String
  pattern : Word
  mask : Word
  deriving DecidableEq, Repr

/-- The opcode map as R134 prints it: mnemonic, match, mask. -/
def opcodeTable : List OpcodeRow := [
  ⟨"NOP", 0x00000000#32, 0xFFFFFFFF#32⟩,
  ⟨"LPF16", 0x04000000#32, 0xFC01FFFF#32⟩,
  ⟨"LPF32", 0x08000000#32, 0xFC01FFFF#32⟩,
  ⟨"RL16", 0x0C000000#32, 0xFC01FFFF#32⟩,
  ⟨"MIXR", 0x10000000#32, 0xFC003FFF#32⟩,
  ⟨"MIXL", 0x14000000#32, 0xFC003FFF#32⟩,
  ⟨"SAT16", 0x18000000#32, 0xFC0FFFFF#32⟩,
  ⟨"XOR16", 0x1C000000#32, 0xFC01FFFF#32⟩,
  ⟨"FRMCHK", 0x20000000#32, 0xFC7FFFFF#32⟩,
  ⟨"LI", 0x40000000#32, 0xFC7F0000#32⟩,
  ⟨"LUI", 0x44000000#32, 0xFC7F0000#32⟩,
  ⟨"MOV", 0x48000000#32, 0xFC0FFFFF#32⟩,
  ⟨"LDR", 0x4C000000#32, 0xFC7FF000#32⟩,
  ⟨"STR", 0x50000000#32, 0xFC7FF000#32⟩,
  ⟨"TICK", 0x80000000#32, 0xFFFFFFFF#32⟩,
  ⟨"SWRESET", 0x84000000#32, 0xFFFFFFFF#32⟩]


/-- The mnemonic of an instruction (R134). -/
def Instr.mnemonic : Instr → String
  | .nop => "NOP"
  | .lpf16 _ _ _ => "LPF16"
  | .lpf32 _ _ _ => "LPF32"
  | .rl16 _ _ _ => "RL16"
  | .mixr _ _ _ _ => "MIXR"
  | .mixl _ _ _ _ => "MIXL"
  | .sat16 _ _ => "SAT16"
  | .xor16 _ _ _ => "XOR16"
  | .frmchk _ => "FRMCHK"
  | .li _ _ => "LI"
  | .lui _ _ => "LUI"
  | .mov _ _ => "MOV"
  | .ldr _ _ => "LDR"
  | .str _ _ => "STR"
  | .tick => "TICK"
  | .swreset => "SWRESET"

/-! ## The offsets of the host window -/

/-- The CFGVALID index of a must-write register (R42, column "M k"). -/
def MustReg.index : MustReg → Fin 17
  | .rate => 0
  | .filtCoef => 1
  | .filtCoefBrake => 2
  | .tempCoef => 3
  | .speedGainNormal => 4
  | .speedGainTurbo => 5
  | .steerGain => 6
  | .tempWarn => 7
  | .tempOff => 8
  | .batSlow => 9
  | .batFast => 10
  | .batDead => 11
  | .inactTicks => 12
  | .startSent => 13
  | .consumedSent => 14
  | .tcalMul => 15
  | .tcalAdd => 16

/-- The byte offset of a must-write register (R42). -/
def MustReg.offset : MustReg → Nat
  | .rate => 0x044
  | .filtCoef => 0x048
  | .filtCoefBrake => 0x04C
  | .tempCoef => 0x050
  | .speedGainNormal => 0x054
  | .speedGainTurbo => 0x058
  | .steerGain => 0x05C
  | .tempWarn => 0x068
  | .tempOff => 0x06C
  | .batSlow => 0x070
  | .batFast => 0x074
  | .batDead => 0x078
  | .inactTicks => 0x084
  | .startSent => 0x08C
  | .consumedSent => 0x090
  | .tcalMul => 0x094
  | .tcalAdd => 0x098

/-- The byte offset of RXBUF[0] in the window (R104). -/
def rxBase : Nat := 0x200

/-- The byte offset of TXBUF[0] in the window (R105). -/
def txBase : Nat := 0x240

/-- The byte offset of a register in the host window (R101, 10_state.md). -/
def HostReg.offset : HostReg → Nat
  | .x i => 4 * i.val
  | .cmd => 0x020
  | .status => 0x024
  | .errCmd => 0x028
  | .cfgValid => 0x02C
  | .irqEn => 0x030
  | .irqPend => 0x034
  | .rstFlags => 0x038
  | .ident => 0x03C
  | .ctrl => 0x040
  | .must m => m.offset
  | .cmdMin => 0x060
  | .cmdMax => 0x064
  | .standstill => 0x07C
  | .revCue => 0x080
  | .serTimeout => 0x088
  | .poSteps => 0x09C
  | .toneTab k => 0x0A0 + 4 * k.val
  | .rlSteer => 0x100
  | .rlSpeed => 0x104
  | .lpfSteer => 0x108
  | .lpfSpeed => 0x10C
  | .tempFilt => 0x110
  | .tempDegc => 0x114
  | .steerCmd => 0x118
  | .speedCmd => 0x11C
  | .mixR => 0x120
  | .mixL => 0x124
  | .cmd1 => 0x128
  | .cmd2 => 0x12C
  | .serCnt => 0x130
  | .link => 0x134
  | .inactCnt => 0x138
  | .fbDiv => 0x13C
  | .tickCnt => 0x140
  | .sup => 0x144
  | .speedAvg => 0x148
  | .inSteer => 0x180
  | .inSpeed => 0x184
  | .inFlags => 0x188
  | .inMeasR => 0x18C
  | .inMeasL => 0x190
  | .inErr => 0x194
  | .inTempRaw => 0x198
  | .inBat => 0x19C
  | .tgtR => 0x1C0
  | .tgtL => 0x1C4
  | .outFlags => 0x1C8
  | .buz => 0x1CC
  | .rxWord j => rxBase + 4 * j.val
  | .txWord j => txBase + 4 * j.val

/-- Every must-write register. -/
def mustRegs : List MustReg :=
  [.rate, .filtCoef, .filtCoefBrake, .tempCoef, .speedGainNormal, .speedGainTurbo, .steerGain, .tempWarn, .tempOff,
   .batSlow, .batFast, .batDead, .inactTicks, .startSent, .consumedSent, .tcalMul, .tcalAdd]

/-- Every mapped register of the host window (R101). -/
def hostRegs : List HostReg :=
  (List.finRange 8).map .x ++
  [.cmd, .status, .errCmd, .cfgValid, .irqEn, .irqPend, .rstFlags, .ident, .ctrl] ++
  mustRegs.map .must ++
  [.cmdMin, .cmdMax, .standstill, .revCue, .serTimeout, .poSteps] ++
  (List.finRange 6).map .toneTab ++
  [.rlSteer, .rlSpeed, .lpfSteer, .lpfSpeed, .tempFilt] ++
  [.tempDegc, .steerCmd, .speedCmd, .mixR, .mixL, .cmd1, .cmd2, .serCnt, .link, .inactCnt, .fbDiv, .tickCnt, .sup,
   .speedAvg] ++
  [.inSteer, .inSpeed, .inFlags, .inMeasR, .inMeasL, .inErr, .inTempRaw, .inBat] ++
  [.tgtR, .tgtL, .outFlags, .buz] ++
  (List.finRange 2).map .rxWord ++
  (List.finRange 5).map .txWord

/-- The register at a byte offset, none where the offset is unmapped (R101). -/
def hostRegAt (off : Offset) : Option HostReg := hostRegs.find? (fun r => r.offset == off.toNat)

/-! ## The assembler -/

/-- A register operand as a field value; a number out of range is cut, and Asm.wellFormed rules it out (R138). -/
def asmReg (r : Nat) : Reg := Fin.ofNat 8 r

/-- The words of one assembler line: a command, or the expansion of a pseudo-command (R138, R139). imm is encoded as
wrap_16(imm); LI32 splits v into v[15:0] and v[31:16]; WCFG goes through R7. -/
def Asm.expand : Asm → List Instr
  | .nop => [.nop]
  | .lpf16 rd ra rb => [.lpf16 (asmReg rd) (asmReg ra) (asmReg rb)]
  | .lpf32 rd ra rb => [.lpf32 (asmReg rd) (asmReg ra) (asmReg rb)]
  | .rl16 rd ra rb => [.rl16 (asmReg rd) (asmReg ra) (asmReg rb)]
  | .mixr rd ra rb rc => [.mixr (asmReg rd) (asmReg ra) (asmReg rb) (asmReg rc)]
  | .mixl rd ra rb rc => [.mixl (asmReg rd) (asmReg ra) (asmReg rb) (asmReg rc)]
  | .sat16 rd ra => [.sat16 (asmReg rd) (asmReg ra)]
  | .xor16 rd ra rb => [.xor16 (asmReg rd) (asmReg ra) (asmReg rb)]
  | .frmchk rd => [.frmchk (asmReg rd)]
  | .li rd imm => [.li (asmReg rd) (BitVec.ofInt 16 imm)]
  | .lui rd imm => [.lui (asmReg rd) (BitVec.ofInt 16 imm)]
  | .mov rd ra => [.mov (asmReg rd) (asmReg ra)]
  | .ldr rd off => [.ldr (asmReg rd) (BitVec.ofNat 12 off)]
  | .str rs off => [.str (asmReg rs) (BitVec.ofNat 12 off)]
  | .ldrName rd name => [.ldr (asmReg rd) (BitVec.ofNat 12 name.offset)]
  | .strName rs name => [.str (asmReg rs) (BitVec.ofNat 12 name.offset)]
  | .tick => [.tick]
  | .swreset => [.swreset]
  | .li32 rd v =>
    [.li (asmReg rd) ((BitVec.ofInt 32 v).extractLsb' 0 16), .lui (asmReg rd) ((BitVec.ofInt 32 v).extractLsb' 16 16)]
  | .clr rd => [.li (asmReg rd) 0#16]
  | .wcfg name v =>
    [.li 7 ((BitVec.ofInt 32 v).extractLsb' 0 16), .lui 7 ((BitVec.ofInt 32 v).extractLsb' 16 16),
     .str 7 (BitVec.ofNat 12 name.offset)]

/-- The assembler: the command words of a line, none where the line is not legal (R138 to R140). -/
def Asm.assemble (a : Asm) : Option (List Word) :=
  if a.wellFormed then some (a.expand.map encode) else none

end Sys2Proof
end

