-- ==== Sys2Proof/Machine/State.lean ====
section
/-! DEFINITION. The state of HSB as plain data (10_state.md), the actions of the outside world that a step performs, and
the state after reset (70_reset_and_hazards.md R441, R442). -/

namespace Sys2Proof.Machine

/-! ## Names the registers encode -/

/-- SUP.STATE: "0 DISABLED, 1 ENABLED, 2 BTN_WAIT, 3 POWEROFF, 4 HALTED; values 5–7 never occur" (R55, R300). -/
inductive SupState where
  | disabled | enabled | btnWait | poweroff | halted
  deriving DecidableEq, Repr

/-- The errors a command can end in (R400). -/
inductive ErrorKind where
  | illegal | halted | align | noReg | ro | cfgUnset | badCfg | rateNeg
  deriving DecidableEq, Repr

/-- The events, one bit of IRQ_PEND each (R410). -/
inductive IrqEvent where
  | err | linkLost | linkOk | enabled | monDis | btn | poweroff | halt | resync | fbSent | frameOk
  deriving DecidableEq, Repr

/-- The access classes (R31). -/
inductive Access where
  | rw | ro | w1c | cmd
  deriving DecidableEq, Repr

/-- What a frame in RXBUF is (R351). -/
inductive Verdict where
  | accept | stale | badsum | resync
  deriving DecidableEq, Repr

/-! ## The registers, in the groups of the window -/

/-- STATUS (R34): the sticky error bit, its overflow bit, and the code of the first error. -/
structure Status where
  err : Bool
  ovf : Bool
  errCode : BitVec 4
  deriving DecidableEq, Repr

/-- Control and status registers, 0x020–0x038 (R33 to R40). ID is a constant (R37). -/
structure Control where
  cmd : Word
  status : Status
  errCmd : Word
  cfgValid : BitVec 17
  irqEn : BitVec 11
  irqPend : BitVec 11
  rstFlags : BitVec 4
  deriving DecidableEq, Repr

/-- Configuration registers, 0x040–0x0B4, each at its own width (R41, R42). TONE_TAB0 is hardwired 0. -/
structure ConfigRegs where
  ctrl : BitVec 5
  rate : Half
  filtCoef : Half
  filtCoefBrake : Half
  tempCoef : Half
  speedGainNormal : Half
  speedGainTurbo : Half
  steerGain : Half
  cmdMin : Half
  cmdMax : Half
  tempWarn : Half
  tempOff : Half
  batSlow : Half
  batFast : Half
  batDead : Half
  standstill : Half
  revCue : Half
  inactTicks : Word
  serTimeout : Half
  startSent : Half
  consumedSent : Half
  tcalMul : Word
  tcalAdd : Half
  poSteps : BitVec 8
  toneTab1 : Half
  toneTab2 : Half
  toneTab3 : Half
  toneTab4 : Half
  toneTab5 : Half
  deriving DecidableEq, Repr

/-- Filter and limiter state, 0x100–0x110 (R47). -/
structure FilterState where
  rlSteer : Half
  rlSpeed : Half
  lpfSteer : Half
  lpfSpeed : Half
  tempFilt : Word
  deriving DecidableEq, Repr

/-- SUP (R48, R55): the supervisor state and the step of the power-off ramp. -/
structure Supervisor where
  state : SupState
  poStep : BitVec 8
  deriving DecidableEq, Repr

/-- Derived and bookkeeping registers, 0x114–0x148 without SUP (R48). -/
structure Derived where
  tempDegc : Half
  steerCmd : Half
  speedCmd : Half
  mixR : Half
  mixL : Half
  cmd1 : Half
  cmd2 : Half
  serCnt : Half
  linkTimeout : Bool
  inactCnt : Word
  fbDiv : BitVec 8
  tickCnt : Word
  speedAvg : Half
  deriving DecidableEq, Repr

/-- One sample of every input port except rst_cause_in: the ports themselves (R50) and their snapshot registers,
0x180–0x19C (R52), hold the same twelve quantities. -/
structure PortSample where
  steer : Half
  speed : Half
  brake : Bool
  btn : Bool
  txBusy : Bool
  extTimeout : Bool
  measR : Half
  measL : Half
  errR : Byte
  errL : Byte
  tempRaw : Half
  bat : Half
  deriving DecidableEq, Repr

/-- BUZ (R57). -/
structure Buzzer where
  freq : BitVec 8
  pattern : BitVec 8
  toneId : BitVec 3
  deriving DecidableEq, Repr

/-- Output registers, 0x1C0–0x1CC: TGT_R, TGT_L, the bits of OUT_FLAGS, BUZ (R53, R54, R57). -/
structure Outputs where
  tgtR : Half
  tgtL : Half
  enable : Bool
  ctrlOpen : Bool
  powerLatch : Bool
  ack : Bool
  rxRestart : Bool
  txStart : Bool
  buz : Buzzer
  deriving DecidableEq, Repr

/-! ## Byte memory -/

/-- The bytes of RXBUF and TXBUF, keyed by their offset in the host window: cells with strictly rising addresses, none
of which holds what an unlisted address reads as (Memory.wf in Machine/Ops.lean). Log entry 8. -/
abbrev Memory := List Host.Cell

/-! ## The outside world -/

/-- What an agent outside the block does between two commands (R113, R424). Each is one step of the machine. -/
inductive AgentAction where
  /-- A host read of a width in bits at an offset of the window (R102). -/
  | hostRead (width : Nat) (off : Offset)
  /-- A host write of a width in bits at an offset of the window (R102); to CMD it issues a command (R33). -/
  | hostWrite (width : Nat) (off : Offset) (value : Word)
  /-- A byte written by the DMA agent at one of the eight addresses of its port (R103). -/
  | dmaWrite (addr : Fin 8) (byte : Byte)
  /-- The environment drives its input ports, and rst_cause_in, to new levels (R50). -/
  | drivePorts (ports : PortSample) (rstCause : BitVec 4)
  /-- The reset controller asserts the reset input (R440). -/
  | hardReset
  deriving DecidableEq, Repr

/-- The block's answer on the host data bus to the last host access (R102). A field of the model's own. Log entry 7. -/
inductive BusAnswer where
  /-- No host access yet. -/
  | idle
  /-- A read returned this value. -/
  | data (v : Word)
  /-- A write was taken. -/
  | done
  /-- A bus-error response. -/
  | busError
  deriving DecidableEq, Repr

/-! ## The state -/

/-- Everything the spec gives the machine (10_state.md; R60: nothing else), the levels on its input ports, and three
fields of the model's own: pending, bus and unspecReads. -/
structure State where
  /-- R0–R7 (R30). -/
  regs : Vector Word 8
  ctl : Control
  cfg : ConfigRegs
  filt : FilterState
  der : Derived
  sup : Supervisor
  /-- The input snapshot (R52). -/
  snap : PortSample
  out : Outputs
  /-- RXBUF and TXBUF (R58). -/
  mem : Memory
  /-- The levels the environment drives on the input ports now (R50). Log entry 5. -/
  ports : PortSample
  /-- The level on rst_cause_in (R50, R442). -/
  rstCause : BitVec 4
  /-- MODEL's own: the actions still to happen, oldest first. Log entries 1 and 6. -/
  pending : List AgentAction
  /-- MODEL's own: the answer to the last host access. Log entry 7. -/
  bus : BusAnswer
  /-- MODEL's own: how many reads of an unwritten must-write register have happened (U1). Log entry 4. -/
  unspecReads : Nat
  deriving DecidableEq, Repr

/-! ## How a step can stop: it cannot -/

/-- The reasons a step stops with a fault. There is none: a command error is a next state with the record of R402, a
bus error a next state without effect (R405), and nothing hangs (R461, R467). Closed, with no constructor; safe. -/
inductive Fault where
  deriving DecidableEq, Repr

/-- The reasons a step is refused. "Refused: none" (R467 item 2). -/
inductive Refusal where
  /-- Would be raised by exec for an instruction without a meaning; every instruction has one, so no step answers it.
  Safe. -/
  | notModelled (mnemonic : String)
  deriving DecidableEq, Repr

/-- What one step answers. -/
abbrev Outcome := Host.Outcome State Fault Refusal

/-! ## Reset -/

/-- All input ports at 0: the levels in State.reset. DESIGN CHOICE, log entry 5 (the registers IN_* reset to 0, R52). -/
def PortSample.zero : PortSample where
  steer := 0#16
  speed := 0#16
  brake := false
  btn := false
  txBusy := false
  extTimeout := false
  measR := 0#16
  measL := 0#16
  errR := 0#8
  errL := 0#8
  tempRaw := 0#16
  bat := 0#16

/-- The configuration registers after any reset (R42, R441). The seventeen must-write registers have no reset value;
the 0 they hold here is never used or read (R43). DESIGN CHOICE, log entry 3. -/
def ConfigRegs.reset : ConfigRegs where
  ctrl := Config.ctrlReset
  rate := 0#16
  filtCoef := 0#16
  filtCoefBrake := 0#16
  tempCoef := 0#16
  speedGainNormal := 0#16
  speedGainTurbo := 0#16
  steerGain := 0#16
  cmdMin := Config.cmdMinReset
  cmdMax := Config.cmdMaxReset
  tempWarn := 0#16
  tempOff := 0#16
  batSlow := 0#16
  batFast := 0#16
  batDead := 0#16
  standstill := Config.standstillReset
  revCue := Config.revCueReset
  inactTicks := 0#32
  serTimeout := Config.serTimeoutReset
  startSent := 0#16
  consumedSent := 0#16
  tcalMul := 0#32
  tcalAdd := 0#16
  poSteps := Config.poStepsReset
  toneTab1 := 0#16
  toneTab2 := 0#16
  toneTab3 := 0#16
  toneTab4 := 0#16
  toneTab5 := 0#16

/-- The machine right after a power-on reset: every register at the value of R441, RSTFLAGS = 0b0001 by R442. That the
reset is the power-on one is a DESIGN CHOICE, log entry 2; no action is pending, log entry 1. -/
def State.reset : State where
  regs := Vector.replicate 8 0#32
  ctl := { cmd := 0#32, status := { err := false, ovf := false, errCode := 0#4 }, errCmd := 0#32, cfgValid := 0#17,
           irqEn := 0#11, irqPend := 0#11, rstFlags := 0b0001#4 }
  cfg := ConfigRegs.reset
  filt := { rlSteer := 0#16, rlSpeed := 0#16, lpfSteer := 0#16, lpfSpeed := 0#16, tempFilt := 0#32 }
  der := { tempDegc := 0#16, steerCmd := 0#16, speedCmd := 0#16, mixR := 0#16, mixL := 0#16, cmd1 := 0#16,
           cmd2 := 0#16, serCnt := 0#16, linkTimeout := false, inactCnt := 0#32, fbDiv := 0#8, tickCnt := 0#32,
           speedAvg := 0#16 }
  sup := { state := .disabled, poStep := 0#8 }
  snap := PortSample.zero
  out := { tgtR := 0#16, tgtL := 0#16, enable := false, ctrlOpen := false, powerLatch := true, ack := false,
           rxRestart := false, txStart := false, buz := { freq := 0#8, pattern := 0#8, toneId := 0#3 } }
  mem := []
  ports := PortSample.zero
  rstCause := 0b0001#4
  pending := []
  bus := .idle
  unspecReads := 0

end Sys2Proof.Machine
end

