-- ==== Sys2Proof/Machine/Operands.lean ====
section
/-! DEFINITION. The notation of 00_scope.md R9 to R13 (exact integers, floor shifts, saturation), the reading of operands
as integers, and the widening of narrow registers (10_state.md R31). -/

namespace Sys2Proof.Machine

/-! ## Exact arithmetic (R9, R12, R13) -/

/-- `v >> n`: floor(v / 2^n), rounding toward minus infinity (R12). -/
def asr (v : Int) (n : Nat) : Int := v / 2 ^ n

/-- `v << n`: v · 2^n exactly (R12). -/
def shl (v : Int) (n : Nat) : Int := v * 2 ^ n

/-- `clamp(v, lo, hi)`: lo if v < lo, hi if v > hi, else v (R13). -/
def clamp (v lo hi : Int) : Int := if v < lo then lo else if hi < v then hi else v

/-- `sat16(v)` (R13). -/
def sat16 (v : Int) : Int := clamp v (-32768) 32767

/-- `sat32(v)` (R13). -/
def sat32 (v : Int) : Int := clamp v (-2147483648) 2147483647

/-- `abs(v)`: the exact magnitude (R13). -/
def mag (v : Int) : Int := if v < 0 then -v else v

/-- `tdiv(a, b)`: integer division truncating toward zero (R13). -/
def tdiv (a b : Int) : Int := Int.tdiv a b

/-! ## Bit patterns and integers (R10, R11) -/

/-- `p[15:0]` of a 32-bit pattern. -/
def lowHalf (p : Word) : Half := p.extractLsb' 0 16

/-- `p[31:16]` of a 32-bit pattern. -/
def highHalf (p : Word) : Half := p.extractLsb' 16 16

/-- `sext_16(p)`, and `s16(p)` of a 16-bit register (R11). -/
def s16 (p : Half) : Int := p.toInt

/-- `sext_32(p)`, and `s32(p)` (R11). -/
def s32 (p : Word) : Int := p.toInt

/-- `zext_16(p)` (R11). -/
def z16 (p : Half) : Int := (p.toNat : Int)

/-- `wrap_32(v)` (R11). -/
def wrap32 (v : Int) : Word := BitVec.ofInt 32 v

/-- `wrap_16(v)`, also `u16(v)` (R11): how an int16 register stores its value. -/
def wrap16 (v : Int) : Half := BitVec.ofInt 16 v

/-! ## Widening to the host view (R31) -/

/-- int16 and int32 registers read sign-extended (R31). -/
def signed (p : Half) : Word := p.signExtend 32

/-- Unsigned registers and bit fields read zero-extended, undefined bits 0 (R31). -/
def unsigned {n : Nat} (p : BitVec n) : Word := p.setWidth 32

/-- A one-bit field. -/
def bit (b : Bool) : BitVec 1 := BitVec.ofBool b

/-! ## Codes of the named values -/

/-- SUP.STATE's encoding (R55). -/
def supCode : SupState → BitVec 3
  | .disabled => 0#3
  | .enabled => 1#3
  | .btnWait => 2#3
  | .poweroff => 3#3
  | .halted => 4#3

/-- The ERRCODE of an error (R400). -/
def errorCode : ErrorKind → BitVec 4
  | .illegal => 1#4
  | .halted => 2#4
  | .align => 3#4
  | .noReg => 4#4
  | .ro => 5#4
  | .cfgUnset => 6#4
  | .badCfg => 7#4
  | .rateNeg => 8#4

/-- The IRQ_PEND bit of an event (R410). -/
def eventBit : IrqEvent → BitVec 11
  | .err => 0x001#11
  | .linkLost => 0x002#11
  | .linkOk => 0x004#11
  | .enabled => 0x008#11
  | .monDis => 0x010#11
  | .btn => 0x020#11
  | .poweroff => 0x040#11
  | .halt => 0x080#11
  | .resync => 0x100#11
  | .fbSent => 0x200#11
  | .frameOk => 0x400#11

/-- The code FRMCHK returns for a verdict: "0 ACCEPT, 1 STALE, 2 BADSUM, 3 RESYNC" (R342). -/
def verdictCode : Verdict → Half
  | .accept => 0#16
  | .stale => 1#16
  | .badsum => 2#16
  | .resync => 3#16

/-! ## The fields of CTRL (R41) -/

/-- CTRL.SRC: 1 serial receive buffer, 0 input ports. -/
def ctrlSrc (c : BitVec 5) : Bool := c.getLsbD 0

/-- CTRL.FBEN: the feedback frame is built. -/
def ctrlFben (c : BitVec 5) : Bool := c.getLsbD 1

/-- CTRL.MIRROR: the measured-speed formula of R305. -/
def ctrlMirror (c : BitVec 5) : Bool := c.getLsbD 2

/-- CTRL.PROFILE: 0 NORMAL, 1 SLOW, 2 TURBO, 3 reserved. -/
def ctrlProfile (c : BitVec 5) : BitVec 2 := c.extractLsb' 3 2

/-! ## The bits of RSTFLAGS (R40) -/

/-- RSTFLAGS.SOFT. -/
def rstSoft (f : BitVec 4) : Bool := f.getLsbD 2

/-- RSTFLAGS.DEBUG. -/
def rstDebug (f : BitVec 4) : Bool := f.getLsbD 3

/-! ## Host views of the bit-field registers -/

/-- STATUS: ERR bit 0, OVF bit 1, ERRCODE bits 7:4 (R34). -/
def statusWord (s : Status) : Word := unsigned (s.errCode ++ 0#2 ++ bit s.ovf ++ bit s.err)

/-- LINK: TIMEOUT bit 0 (R48). -/
def linkWord (timeout : Bool) : Word := unsigned (bit timeout)

/-- SUP: STATE bits 2:0, PO_STEP bits 15:8 (R48). -/
def supWord (s : Supervisor) : Word := unsigned (s.poStep ++ 0#5 ++ supCode s.state)

/-- IN_FLAGS: BRAKE bit 0, BTN bit 1, TXBUSY bit 2, EXTTO bit 3 (R52). -/
def inFlagsWord (p : PortSample) : Word := unsigned (bit p.extTimeout ++ bit p.txBusy ++ bit p.btn ++ bit p.brake)

/-- IN_ERR: ERR_R bits 7:0, ERR_L bits 15:8 (R52). -/
def inErrWord (p : PortSample) : Word := unsigned (p.errL ++ p.errR)

/-- OUT_FLAGS: ENABLE, CTRL_OPEN, POWER_LATCH, ACK, RX_RESTART, TX_START in bits 0 to 5 (R54). -/
def outFlagsWord (o : Outputs) : Word :=
  unsigned (bit o.txStart ++ bit o.rxRestart ++ bit o.ack ++ bit o.powerLatch ++ bit o.ctrlOpen ++ bit o.enable)

/-- BUZ: FREQ bits 7:0, PATTERN bits 15:8, TONE_ID bits 18:16 (R57). -/
def buzWord (b : Buzzer) : Word := unsigned (b.toneId ++ b.pattern ++ b.freq)

/-- A tone-table entry, FREQ bits 7:0 and PATTERN bits 15:8 (R42), as BUZ shows it under a tone id (R308). -/
def toneOf (id : BitVec 3) (entry : Half) : Buzzer :=
  { freq := entry.extractLsb' 0 8, pattern := entry.extractLsb' 8 8, toneId := id }

end Sys2Proof.Machine
end

