-- ==== Sys2Proof/Machine/Flags.lean ====
section
/-! DEFINITION. The status flags of R59: the events and the interrupt line (60_exceptions.md R410, R411), the error record
in STATUS (R34, R402), and the write-one-to-clear rules (R31). -/

namespace Sys2Proof.Machine

/-- `event <NAME>`: sets its bit in IRQ_PEND, whatever IRQ_EN holds (R14, R410). -/
def raiseEvent (e : IrqEvent) (s : State) : State :=
  { s with ctl := { s.ctl with irqPend := s.ctl.irqPend ||| eventBit e } }

/-- The same, where a condition holds. -/
def raiseEventIf (c : Bool) (e : IrqEvent) (s : State) : State := if c then raiseEvent e s else s

/-- The output `irq = ((IRQ_PEND & IRQ_EN) != 0)`, a level (R411). -/
def irq (s : State) : Bool := decide (s.ctl.irqPend &&& s.ctl.irqEn ≠ 0#11)

/-- STATUS after an error of kind e: the first one is recorded, a later one sets OVF (R402). -/
def statusAfterError (e : ErrorKind) (st : Status) : Status :=
  if st.err then { st with ovf := true } else { st with err := true, errCode := errorCode e }

/-- ERRCMD after an error of the command word w: written "only when ERR goes from 0 to 1" (R35, R402). -/
def errCmdAfterError (st : Status) (w old : Word) : Word := if st.err then old else w

/-- A write of v to STATUS: W1C of bits 0 and 1; clearing ERR clears ERRCODE; the rest is ignored (R34, R402). -/
def statusAfterWrite (v : Word) (st : Status) : Status :=
  { err := st.err && !v.getLsbD 0,
    ovf := st.ovf && !v.getLsbD 1,
    errCode := if v.getLsbD 0 then 0#4 else st.errCode }

/-- A write of v to IRQ_PEND: each written 1 clears its bit (R31, R39). -/
def irqPendAfterWrite (v : Word) (p : BitVec 11) : BitVec 11 := p &&& ~~~(v.setWidth 11)

/-- CFGVALID after a write to the must-write register m (R36, R43). -/
def cfgValidAfterWrite (m : MustReg) (c : BitVec 17) : BitVec 17 := c ||| (1#17 <<< m.index.val)

/-- Whether the must-write register m has been written since the last reset (R36). -/
def isWritten (s : State) (m : MustReg) : Bool := s.ctl.cfgValid.getLsbD m.index.val

/-- "All seventeen bits set is written CFGVALID = 0x0001FFFF" (R36). -/
def configured (s : State) : Bool := s.ctl.cfgValid == 0x1FFFF#17

end Sys2Proof.Machine
end

