-- ==== Sys2Proof/Machine/Ops.lean ====
section
/-! DEFINITION. The shared operations: operand registers, the byte memory of RXBUF and TXBUF, the registers of the host
window, and ending a command in an error with the record of R402 (and clearing that record, which is all the return from
it there is, R403). -/

namespace Sys2Proof.Machine

/-! ## Operand registers (R14, R30) -/

/-- `x[i]`. -/
def getReg (s : State) (i : Reg) : Word := s.regs[i]

/-- `x[i] <- v`. -/
def setReg (i : Reg) (v : Word) (s : State) : State := { s with regs := s.regs.set i v }

/-! ## Byte memory (R58, R104, R105) -/

/-- What a byte that the memory does not list reads as: the reset contents of both buffers, 0x00 (R58). -/
def unlistedByte : Byte := 0#8

/-- The byte at an address. -/
def readByte : Memory → Nat → Byte
  | [], _ => unlistedByte
  | (k, v) :: rest, a => if k = a then v else readByte rest a

/-- Puts a byte in front of a memory unless it is what an unlisted address reads as. -/
def consByte (a : Nat) (b : Byte) (m : Memory) : Memory := if b = unlistedByte then m else (a, b) :: m

/-- Writes a byte, keeping the canonical form. -/
def writeByte : Memory → Nat → Byte → Memory
  | [], a, b => consByte a b []
  | (k, v) :: rest, a, b =>
    if k < a then (k, v) :: writeByte rest a b
    else if k = a then consByte a b rest
    else consByte a b ((k, v) :: rest)

/-- The canonical form: addresses strictly rising, no entry equal to what an unlisted address reads as. -/
abbrev Memory.wf (m : Memory) : Prop :=
  m.Pairwise (fun c d => c.1 < d.1) ∧ ∀ c ∈ m, c.2 ≠ unlistedByte

/-- Whether a window offset is a byte of RXBUF or TXBUF (R58, R101). -/
def isBufferByte (a : Nat) : Bool :=
  (decide (rxBase ≤ a) && decide (a < rxBase + 8)) || (decide (txBase ≤ a) && decide (a < txBase + 20))

/-- Every listed byte is a byte of a buffer. -/
def Memory.inBuffers (m : Memory) : Bool := m.all (fun c => isBufferByte c.1)

/-- `MemRead(addr, 2)`, little-endian (R14, R104). -/
def readHalf (m : Memory) (a : Nat) : Half := readByte m (a + 1) ++ readByte m a

/-- `MemRead(addr, 4)`, little-endian (R14, R104, R105). -/
def readWord (m : Memory) (a : Nat) : Word :=
  readByte m (a + 3) ++ readByte m (a + 2) ++ readByte m (a + 1) ++ readByte m a

/-- `MemWrite(addr, 2, v)`, least significant byte at addr (R14). -/
def writeHalf (m : Memory) (a : Nat) (v : Half) : Memory :=
  writeByte (writeByte m a (v.extractLsb' 0 8)) (a + 1) (v.extractLsb' 8 8)

/-- `MemWrite(addr, 4, v)`, least significant byte at addr (R14, R104). -/
def writeWord (m : Memory) (a : Nat) (v : Word) : Memory :=
  writeHalf (writeHalf m a (v.extractLsb' 0 16)) (a + 2) (v.extractLsb' 16 16)

/-- A byte of RXBUF (R104). -/
def rxByte (s : State) (i : Nat) : Byte := readByte s.mem (rxBase + i)

/-- A byte of TXBUF (R105). -/
def txByte (s : State) (i : Nat) : Byte := readByte s.mem (txBase + i)

/-! ## The registers of the host window (R31, R42 to R58) -/

/-- The access class of a register (R31, R252). -/
def accessOf : HostReg → Access
  | .x _ => .rw
  | .cmd => .cmd
  | .status => .w1c
  | .errCmd => .ro
  | .cfgValid => .ro
  | .irqEn => .rw
  | .irqPend => .w1c
  | .rstFlags => .ro
  | .ident => .ro
  | .ctrl => .rw
  | .must _ => .rw
  | .cmdMin => .rw
  | .cmdMax => .rw
  | .standstill => .rw
  | .revCue => .rw
  | .serTimeout => .rw
  | .poSteps => .rw
  | .toneTab k => if k = 0 then .ro else .rw
  | .rlSteer => .rw
  | .rlSpeed => .rw
  | .lpfSteer => .rw
  | .lpfSpeed => .rw
  | .tempFilt => .rw
  | .tempDegc => .ro
  | .steerCmd => .ro
  | .speedCmd => .ro
  | .mixR => .ro
  | .mixL => .ro
  | .cmd1 => .ro
  | .cmd2 => .ro
  | .serCnt => .ro
  | .link => .ro
  | .inactCnt => .ro
  | .fbDiv => .ro
  | .tickCnt => .ro
  | .sup => .ro
  | .speedAvg => .ro
  | .inSteer => .ro
  | .inSpeed => .ro
  | .inFlags => .ro
  | .inMeasR => .ro
  | .inMeasL => .ro
  | .inErr => .ro
  | .inTempRaw => .ro
  | .inBat => .ro
  | .tgtR => .ro
  | .tgtL => .ro
  | .outFlags => .ro
  | .buz => .ro
  | .rxWord _ => .rw
  | .txWord _ => .ro

/-- Whether STR and a host write may write the register: classes RW and W1C (R252). -/
def isWritable (r : HostReg) : Bool := accessOf r == .rw || accessOf r == .w1c

/-- A must-write register's host view, given what the register holds (R31, R42): the signed ones sign-extended. -/
def mustView (c : ConfigRegs) : MustReg → Word
  | .rate => signed c.rate
  | .filtCoef => unsigned c.filtCoef
  | .filtCoefBrake => unsigned c.filtCoefBrake
  | .tempCoef => unsigned c.tempCoef
  | .speedGainNormal => signed c.speedGainNormal
  | .speedGainTurbo => signed c.speedGainTurbo
  | .steerGain => signed c.steerGain
  | .tempWarn => signed c.tempWarn
  | .tempOff => signed c.tempOff
  | .batSlow => signed c.batSlow
  | .batFast => signed c.batFast
  | .batDead => signed c.batDead
  | .inactTicks => c.inactTicks
  | .startSent => unsigned c.startSent
  | .consumedSent => unsigned c.consumedSent
  | .tcalMul => c.tcalMul
  | .tcalAdd => signed c.tcalAdd

/-- A write of a 32-bit word to a must-write register: bits [N−1:0] are stored (R31). -/
def mustStore (m : MustReg) (v : Word) (c : ConfigRegs) : ConfigRegs :=
  match m with
  | .rate => { c with rate := lowHalf v }
  | .filtCoef => { c with filtCoef := lowHalf v }
  | .filtCoefBrake => { c with filtCoefBrake := lowHalf v }
  | .tempCoef => { c with tempCoef := lowHalf v }
  | .speedGainNormal => { c with speedGainNormal := lowHalf v }
  | .speedGainTurbo => { c with speedGainTurbo := lowHalf v }
  | .steerGain => { c with steerGain := lowHalf v }
  | .tempWarn => { c with tempWarn := lowHalf v }
  | .tempOff => { c with tempOff := lowHalf v }
  | .batSlow => { c with batSlow := lowHalf v }
  | .batFast => { c with batFast := lowHalf v }
  | .batDead => { c with batDead := lowHalf v }
  | .inactTicks => { c with inactTicks := v }
  | .startSent => { c with startSent := lowHalf v }
  | .consumedSent => { c with consumedSent := lowHalf v }
  | .tcalMul => { c with tcalMul := v }
  | .tcalAdd => { c with tcalAdd := lowHalf v }

/-- What a read of an unwritten must-write register returns: any value of the register's width, widened as R31 says. The
value is that of a fresh register holding the free value (U1, R43). Log entry 4. -/
def unspecifiedView (s : State) (m : MustReg) : Word :=
  mustView (mustStore m (Config.unspecified s.unspecReads) s.cfg) m

/-- The entry k of the tone table; TONE_TAB0 is hardwired 0 (R42). -/
def toneEntry (c : ConfigRegs) (k : Fin 6) : Half :=
  match k with
  | 0 => 0#16
  | 1 => c.toneTab1
  | 2 => c.toneTab2
  | 3 => c.toneTab3
  | 4 => c.toneTab4
  | 5 => c.toneTab5

/-- A write to the entry k of the tone table: bits 15:0 are stored (R31, R42). -/
def storeTone (k : Fin 6) (v : Word) (c : ConfigRegs) : ConfigRegs :=
  match k with
  | 0 => c
  | 1 => { c with toneTab1 := lowHalf v }
  | 2 => { c with toneTab2 := lowHalf v }
  | 3 => { c with toneTab3 := lowHalf v }
  | 4 => { c with toneTab4 := lowHalf v }
  | 5 => { c with toneTab5 := lowHalf v }

/-- `REG[off]`, the 32-bit host view of a register (R14, R31). -/
def view (s : State) : HostReg → Word
  | .x i => getReg s i
  | .cmd => s.ctl.cmd
  | .status => statusWord s.ctl.status
  | .errCmd => s.ctl.errCmd
  | .cfgValid => unsigned s.ctl.cfgValid
  | .irqEn => unsigned s.ctl.irqEn
  | .irqPend => unsigned s.ctl.irqPend
  | .rstFlags => unsigned s.ctl.rstFlags
  | .ident => Config.idValue
  | .ctrl => unsigned s.cfg.ctrl
  | .must m => if isWritten s m then mustView s.cfg m else unspecifiedView s m
  | .cmdMin => signed s.cfg.cmdMin
  | .cmdMax => signed s.cfg.cmdMax
  | .standstill => signed s.cfg.standstill
  | .revCue => signed s.cfg.revCue
  | .serTimeout => unsigned s.cfg.serTimeout
  | .poSteps => unsigned s.cfg.poSteps
  | .toneTab k => unsigned (toneEntry s.cfg k)
  | .rlSteer => signed s.filt.rlSteer
  | .rlSpeed => signed s.filt.rlSpeed
  | .lpfSteer => signed s.filt.lpfSteer
  | .lpfSpeed => signed s.filt.lpfSpeed
  | .tempFilt => s.filt.tempFilt
  | .tempDegc => signed s.der.tempDegc
  | .steerCmd => signed s.der.steerCmd
  | .speedCmd => signed s.der.speedCmd
  | .mixR => signed s.der.mixR
  | .mixL => signed s.der.mixL
  | .cmd1 => signed s.der.cmd1
  | .cmd2 => signed s.der.cmd2
  | .serCnt => unsigned s.der.serCnt
  | .link => linkWord s.der.linkTimeout
  | .inactCnt => s.der.inactCnt
  | .fbDiv => unsigned s.der.fbDiv
  | .tickCnt => s.der.tickCnt
  | .sup => supWord s.sup
  | .speedAvg => signed s.der.speedAvg
  | .inSteer => signed s.snap.steer
  | .inSpeed => signed s.snap.speed
  | .inFlags => inFlagsWord s.snap
  | .inMeasR => signed s.snap.measR
  | .inMeasL => signed s.snap.measL
  | .inErr => inErrWord s.snap
  | .inTempRaw => signed s.snap.tempRaw
  | .inBat => signed s.snap.bat
  | .tgtR => signed s.out.tgtR
  | .tgtL => signed s.out.tgtL
  | .outFlags => outFlagsWord s.out
  | .buz => buzWord s.out.buz
  | .rxWord j => readWord s.mem (rxBase + 4 * j.val)
  | .txWord j => readWord s.mem (txBase + 4 * j.val)

/-- The machine after a read of a register. No read has a side effect (R110); only the model's own count of free values
advances, so that the next read of an unwritten must-write register may return another value (U1). -/
def afterRead (r : HostReg) (s : State) : State :=
  match r with
  | .must m => if isWritten s m then s else { s with unspecReads := s.unspecReads + 1 }
  | _ => s

/-- `REG[off] <- v` for a register of class RW or W1C, with the CFGVALID side effect (R14, R31, R43). A register of
another class is left as it is: its writers test isWritable first. -/
def store (r : HostReg) (v : Word) (s : State) : State :=
  match r with
  | .x i => setReg i v s
  | .status => { s with ctl := { s.ctl with status := statusAfterWrite v s.ctl.status } }
  | .irqEn => { s with ctl := { s.ctl with irqEn := v.setWidth 11 } }
  | .irqPend => { s with ctl := { s.ctl with irqPend := irqPendAfterWrite v s.ctl.irqPend } }
  | .ctrl => { s with cfg := { s.cfg with ctrl := v.setWidth 5 } }
  | .must m =>
    { s with cfg := mustStore m v s.cfg, ctl := { s.ctl with cfgValid := cfgValidAfterWrite m s.ctl.cfgValid } }
  | .cmdMin => { s with cfg := { s.cfg with cmdMin := lowHalf v } }
  | .cmdMax => { s with cfg := { s.cfg with cmdMax := lowHalf v } }
  | .standstill => { s with cfg := { s.cfg with standstill := lowHalf v } }
  | .revCue => { s with cfg := { s.cfg with revCue := lowHalf v } }
  | .serTimeout => { s with cfg := { s.cfg with serTimeout := lowHalf v } }
  | .poSteps => { s with cfg := { s.cfg with poSteps := v.setWidth 8 } }
  | .toneTab k => { s with cfg := storeTone k v s.cfg }
  | .rlSteer => { s with filt := { s.filt with rlSteer := lowHalf v } }
  | .rlSpeed => { s with filt := { s.filt with rlSpeed := lowHalf v } }
  | .lpfSteer => { s with filt := { s.filt with lpfSteer := lowHalf v } }
  | .lpfSpeed => { s with filt := { s.filt with lpfSpeed := lowHalf v } }
  | .tempFilt => { s with filt := { s.filt with tempFilt := v } }
  | .rxWord j => { s with mem := writeWord s.mem (rxBase + 4 * j.val) v }
  | .cmd | .errCmd | .cfgValid | .rstFlags | .ident | .tempDegc | .steerCmd | .speedCmd | .mixR | .mixL | .cmd1 | .cmd2
  | .serCnt | .link | .inactCnt | .fbDiv | .tickCnt | .sup | .speedAvg | .inSteer | .inSpeed | .inFlags | .inMeasR
  | .inMeasL | .inErr | .inTempRaw | .inBat | .tgtR | .tgtL | .outFlags | .buz | .txWord _ => s

/-! ## Ending a command in an error (R402), and clearing the record -/

/-- `raise E_<NAME>`: the error record and the ERR event, and no other effect (R14, R402). The command word is the one
CMD holds, stored before it executes (R33). -/
def raiseError (e : ErrorKind) (s : State) : State :=
  raiseEvent .err
    { s with ctl := { s.ctl with status := statusAfterError e s.ctl.status,
                                 errCmd := errCmdAfterError s.ctl.status s.ctl.cmd s.ctl.errCmd } }

/-- What the host does in place of a return: it writes 1 to STATUS.ERR and STATUS.OVF, which clears the record and keeps
ERRCMD (R402, R403). -/
def clearErrorRecord (s : State) : State := store .status 3#32 s

/-- A command as one indivisible step (R15): in HALTED it raises E_HALTED before any other check (R404); else it completes
whole or raises the first error of its own checks (R401, R403). -/
def runCommand (s : State) (body : Except ErrorKind State) : Outcome :=
  if s.sup.state = .halted then .next (raiseError .halted s)
  else
    match body with
    | .ok t => .next t
    | .error e => .next (raiseError e s)

/-! ## The output ports (R53, R54, R57, R411) -/

/-- The levels on the output ports. -/
structure OutputPorts where
  tgtR : Half
  tgtL : Half
  enable : Bool
  ctrlOpen : Bool
  powerLatch : Bool
  ack : Bool
  rxRestart : Bool
  txStart : Bool
  freq : BitVec 8
  pattern : BitVec 8
  irq : Bool
  deriving DecidableEq, Repr

/-- Each output port follows its register at once (R53, R54, R57, R441). -/
def outputPorts (s : State) : OutputPorts :=
  { tgtR := s.out.tgtR, tgtL := s.out.tgtL, enable := s.out.enable, ctrlOpen := s.out.ctrlOpen,
    powerLatch := s.out.powerLatch, ack := s.out.ack, rxRestart := s.out.rxRestart, txStart := s.out.txStart,
    freq := s.out.buz.freq, pattern := s.out.buz.pattern, irq := irq s }

/-! ## The two parameters the spec leaves open -/

/-- The offset a platform address reaches, none outside the window: "a host access to address HSB_BASE + off reaches
offset off" (R101). -/
def windowOffset (addr : Nat) : Option Offset :=
  if Config.hsbBase ≤ addr ∧ addr < Config.hsbBase + 4096 then some (BitVec.ofNat 12 (addr - Config.hsbBase)) else none

/-- The real time of a count of TICKs: the count times TICK_PERIOD (R421, U21). -/
def realTime (ticks : Nat) : Nat := ticks * Config.tickPeriod

end Sys2Proof.Machine
end

