-- ==== Sys2Proof/Machine/System.lean ====
section
/-! DEFINITION. SWRESET (45_system.md R380) and the resets (70_reset_and_hazards.md R440 to R444). -/

namespace Sys2Proof.Machine

/-- ResetState(): every register to its reset value (R440, R441), with RSTFLAGS as the reset's kind gives it (R442). "A
reset has no effect outside the block" (R444): the levels on the input ports, the actions still to happen, the last bus
answer and the model's count of free values stay. -/
def resetState (flags : BitVec 4) (s : State) : State :=
  { State.reset with
    ctl := { State.reset.ctl with rstFlags := flags },
    ports := s.ports,
    rstCause := s.rstCause,
    pending := s.pending,
    bus := s.bus,
    unspecReads := s.unspecReads }

/-- RSTFLAGS after a hardware reset (R442). -/
def hardResetFlags (cause old : BitVec 4) : BitVec 4 :=
  if cause.getLsbD 0 then 0b0001#4
  else if cause = 0#4 then old ||| 0b0010#4
  else old ||| (cause &&& 0b1110#4)

/-- A hardware reset: it reads rst_cause_in, and is the only way out of HALTED (R440, R442). -/
def hardwareReset (s : State) : State := resetState (hardResetFlags s.rstCause s.ctl.rstFlags) s

/-- SWRESET (R380): refused in POWEROFF; else every register to its reset value, RSTFLAGS kept with SOFT set. -/
def execSwreset (s : State) : Outcome :=
  runCommand s
    (if s.sup.state = .poweroff then .error .halted else .ok (resetState (s.ctl.rstFlags ||| 0b0100#4) s))

end Sys2Proof.Machine
end

