-- ==== Sys2Proof/Machine/FixedPoint.lean ====
section
/-! DEFINITION. The fixed-point primitives LPF16, LPF32, RL16, MIXR, MIXL and SAT16 (40_fixed_point.md). The functions are
the ones TICK uses too. -/

namespace Sys2Proof.Machine

/-! ## The functions of R201, R206, R211 and R222, on exact integers -/

/-- lp16: first-order low-pass filter, 16-bit (R201). -/
def lp16 (xin coef st : Int) : Int := sat16 (asr (xin * coef) 16 + asr ((65535 - coef) * st) 16)

/-- lp32: the same law at 32 bits (R206). R207 says that items 1 to 3 of R203 hold with 32-bit ranges, but the short
forms of items 1 and 2 (one less for a positive value, the same for another) follow from R206 only from −65535 to 65536:
the formula of R206 is followed. DEDUCED, log entry 20. -/
def lp32 (xin coef st : Int) : Int := sat32 (asr (xin * coef) 16 + asr ((65535 - coef) * st) 16)

/-- rl16: rate limiter, 16-bit (R211). -/
def rl16 (xin rate st : Int) : Int := sat16 (st + clamp (shl xin 4 - st) (-rate) rate)

/-- The scaled product of a signal and a gain: `(sp · gs) >> 14`, exact (R222). -/
def gainProduct (signal gain : Int) : Int := asr (signal * gain) 14

/-- mixR: right output of the differential-drive mix (R222). -/
def mixR (sp st gs gt lo hi : Int) : Int := clamp (asr (sat16 (gainProduct sp gs - gainProduct st gt)) 4) lo hi

/-- mixL: left output (R222). -/
def mixL (sp st gs gt lo hi : Int) : Int := clamp (asr (sat16 (gainProduct sp gs + gainProduct st gt)) 4) lo hi

/-! ## The commands -/

/-- Whether the command range is empty: CMD_MIN > CMD_MAX (R46). -/
def badRange (s : State) : Bool := decide (s16 s.cfg.cmdMax < s16 s.cfg.cmdMin)

/-- LPF16 (R200): state Rd, input Ra, coefficient Rb, all in their low halves. -/
def execLpf16 (rd ra rb : Reg) (s : State) : Outcome :=
  let xin := s16 (lowHalf (getReg s ra))
  let coef := z16 (lowHalf (getReg s rb))
  let st := s16 (lowHalf (getReg s rd))
  runCommand s (.ok (setReg rd (wrap32 (lp16 xin coef st)) s))

/-- LPF32 (R205): state Rd and input Ra are int32, coefficient Rb in its low half. -/
def execLpf32 (rd ra rb : Reg) (s : State) : Outcome :=
  let xin := s32 (getReg s ra)
  let coef := z16 (lowHalf (getReg s rb))
  let st := s32 (getReg s rd)
  runCommand s (.ok (setReg rd (wrap32 (lp32 xin coef st)) s))

/-- RL16 (R210): state Rd, input Ra, rate Rb; a negative rate raises E_RATE_NEG (R212). -/
def execRl16 (rd ra rb : Reg) (s : State) : Outcome :=
  let xin := s16 (lowHalf (getReg s ra))
  let rate := s16 (lowHalf (getReg s rb))
  let st := s16 (lowHalf (getReg s rd))
  runCommand s (if rate < 0 then .error .rateNeg else .ok (setReg rd (wrap32 (rl16 xin rate st)) s))

/-- MIXR (R220): speed Ra, steer Rb, gain pair Rc (speed gain low, steer gain high). -/
def execMixr (rd ra rb rc : Reg) (s : State) : Outcome :=
  let sp := s16 (lowHalf (getReg s ra))
  let st := s16 (lowHalf (getReg s rb))
  let gs := s16 (lowHalf (getReg s rc))
  let gt := s16 (highHalf (getReg s rc))
  runCommand s
    (if badRange s then .error .badCfg
     else .ok (setReg rd (wrap32 (mixR sp st gs gt (s16 s.cfg.cmdMin) (s16 s.cfg.cmdMax))) s))

/-- MIXL (R221): as MIXR, with the left output. -/
def execMixl (rd ra rb rc : Reg) (s : State) : Outcome :=
  let sp := s16 (lowHalf (getReg s ra))
  let st := s16 (lowHalf (getReg s rb))
  let gs := s16 (lowHalf (getReg s rc))
  let gt := s16 (highHalf (getReg s rc))
  runCommand s
    (if badRange s then .error .badCfg
     else .ok (setReg rd (wrap32 (mixL sp st gs gt (s16 s.cfg.cmdMin) (s16 s.cfg.cmdMax))) s))

/-- SAT16 (R230). -/
def execSat16 (rd ra : Reg) (s : State) : Outcome :=
  runCommand s (.ok (setReg rd (wrap32 (sat16 (s32 (getReg s ra)))) s))

end Sys2Proof.Machine
end

