-- ==== Sys2Proof/Machine/SerialLink.lean ====
section
/-! DEFINITION. The serial link (44_serial_link.md): XOR16, FRMCHK, the verdict on a frame, the receive step of stage S1
with its timeout machine, and the feedback frame of stage S8. -/

namespace Sys2Proof.Machine

/-! ## The inbound frame (R104, R351) -/

/-- The start marker, RXBUF[0..1]. -/
def frameStart (s : State) : Half := readHalf s.mem rxBase

/-- The steer field, RXBUF[2..3]. -/
def frameSteer (s : State) : Half := readHalf s.mem (rxBase + 2)

/-- The speed field, RXBUF[4..5]. -/
def frameSpeed (s : State) : Half := readHalf s.mem (rxBase + 4)

/-- The checksum field, RXBUF[6..7]. -/
def frameChecksum (s : State) : Half := readHalf s.mem (rxBase + 6)

/-- Verdict() (R351). -/
def verdict (s : State) : Verdict :=
  if frameStart s = s.cfg.startSent then
    if frameChecksum s = frameStart s ^^^ frameSteer s ^^^ frameSpeed s then .accept else .badsum
  else if frameStart s = s.cfg.consumedSent then .stale
  else .resync

/-! ## The commands -/

/-- XOR16 (R340): the low halves, zero-extended. -/
def execXor16 (rd ra rb : Reg) (s : State) : Outcome :=
  runCommand s (.ok (setReg rd (unsigned (lowHalf (getReg s ra) ^^^ lowHalf (getReg s rb))) s))

/-- FRMCHK (R342): the verdict's code; the sentinels must have been written and differ. -/
def execFrmchk (rd : Reg) (s : State) : Outcome :=
  runCommand s
    (if !(isWritten s .startSent && isWritten s .consumedSent) then .error .cfgUnset
     else if s.cfg.startSent = s.cfg.consumedSent then .error .badCfg
     else .ok (setReg rd (unsigned (verdictCode (verdict s))) s))

/-! ## SerialReceive (R352, R353) -/

/-- The normalized command range applied to a value: `clamp(v, s16(CMD_MIN), s16(CMD_MAX))` (R265, R352). -/
def toCommand (c : ConfigRegs) (v : Half) : Half := wrap16 (clamp (s16 v) (s16 c.cmdMin) (s16 c.cmdMax))

/-- The accept path (R352): the pair is taken, the start marker becomes CONSUMED_SENT, the counter and the timeout end. -/
def acceptFrame (s : State) : State :=
  raiseEvent .frameOk
    (raiseEventIf s.der.linkTimeout .linkOk
      { s with
        der := { s.der with cmd1 := toCommand s.cfg (frameSteer s), cmd2 := toCommand s.cfg (frameSpeed s),
                            serCnt := 0#16, linkTimeout := false },
        mem := writeHalf s.mem rxBase s.cfg.consumedSent })

/-- `min(SER_CNT + 1, 65535)` (R353). -/
def serCntNext (c : Half) : Half := if c = 0xFFFF#16 then c else c + 1#16

/-- The resync request: RX_RESTART pulses (R353, R354). -/
def requestResync (s : State) : State :=
  raiseEvent .resync { s with out := { s.out with rxRestart := true } }

/-- The timeout counter of a TICK without a valid frame; reaching SER_TIMEOUT sets the flag once (R353). -/
def countMissing (s : State) : State :=
  let cnt := serCntNext s.der.serCnt
  let lost := decide (s.cfg.serTimeout.toNat ≤ cnt.toNat) && !s.der.linkTimeout
  raiseEventIf lost .linkLost
    { s with der := { s.der with serCnt := cnt, linkTimeout := s.der.linkTimeout || lost } }

/-- SerialReceive() (R352, R353). -/
def serialReceive (s : State) : State :=
  match verdict s with
  | .accept => acceptFrame s
  | .resync => countMissing (requestResync s)
  | .stale => countMissing s
  | .badsum => countMissing s

/-! ## Feedback (stage S8) -/

/-- The first nine fields of the feedback frame (R361). -/
def feedbackFields (s : State) : List Half :=
  [s.cfg.startSent, s.der.cmd1, s.der.cmd2, s.out.tgtR, s.out.tgtL, s.snap.measR, s.snap.measL, s.snap.bat, s.der.tempDegc]

/-- The XOR of fields: the frame's checksum (R361). -/
def xorFields (fs : List Half) : Half := fs.foldl (fun a f => a ^^^ f) 0#16

/-- Writes 16-bit fields one after the other, little-endian (R105, R361). -/
def writeFields : Memory → Nat → List Half → Memory
  | m, _, [] => m
  | m, a, f :: fs => writeFields (writeHalf m a f) (a + 2) fs

/-- BuildFrame (R361): nine fields and their XOR into TXBUF. -/
def buildFrame (s : State) : State :=
  { s with mem := writeFields s.mem txBase (feedbackFields s ++ [xorFields (feedbackFields s)]) }

/-- `(FB_DIV + 1) mod 20` (R360). -/
def fbDivNext (d : BitVec 8) : BitVec 8 := BitVec.ofNat 8 ((d.toNat + 1) % Config.feedbackDivisor)

/-- Feedback() (R360): counts, and sends a frame when one is due, enabled and the transport idle. -/
def feedback (s : State) : State :=
  let div := fbDivNext s.der.fbDiv
  let s1 := { s with der := { s.der with fbDiv := div } }
  if ctrlFben s.cfg.ctrl && decide (div = 0#8) && !s.snap.txBusy then
    raiseEvent .fbSent { buildFrame s1 with out := { s1.out with txStart := true } }
  else s1

end Sys2Proof.Machine
end

