-- ==== Sys2Proof/Machine/Conditioner.lean ====
section
/-! DEFINITION. Stages S1, S2, S4 and S5 of TICK: command source, signal conditioner, mixer and gate
(42_tick_conditioner_mixer.md R265 to R279). -/

namespace Sys2Proof.Machine

/-! ## S1: command source (R265) -/

/-- The command pair from its source: the serial receive step, or the ports re-clamped (R265, R266). -/
def takeCommands (s : State) : State :=
  if ctrlSrc s.cfg.ctrl then serialReceive s
  else { s with der := { s.der with cmd1 := toCommand s.cfg s.snap.steer, cmd2 := toCommand s.cfg s.snap.speed } }

/-- commTO, the tick's communication-timeout flag, read after the source step (R265). -/
def commTimeout (s : State) : Bool := if ctrlSrc s.cfg.ctrl then s.der.linkTimeout else s.snap.extTimeout

/-- "both commands pinned to zero", and CTRL_OPEN follows commTO (R265). -/
def applyTimeout (commTO : Bool) (s : State) : State :=
  { s with
    der := { s.der with cmd1 := if commTO then 0#16 else s.der.cmd1, cmd2 := if commTO then 0#16 else s.der.cmd2 },
    out := { s.out with ctrlOpen := commTO } }

/-- CommandSource() (R265). Its commTO is commTimeout of the result. -/
def commandSource (s : State) : State := applyTimeout (commTimeout (takeCommands s)) (takeCommands s)

/-! ## S2: signal conditioner (R270) -/

/-- Condition(): per axis rate limiter, low-pass filter, shift right by 4 (R270, R271). -/
def condition (s : State) : State :=
  let rlSteer := rl16 (s16 s.der.cmd1) (s16 s.cfg.rate) (s16 s.filt.rlSteer)
  let lpfSteer := lp16 rlSteer (z16 s.cfg.filtCoef) (s16 s.filt.lpfSteer)
  let rlSpeed := rl16 (s16 s.der.cmd2) (s16 s.cfg.rate) (s16 s.filt.rlSpeed)
  let coef := if s.snap.brake then s.cfg.filtCoefBrake else s.cfg.filtCoef
  let lpfSpeed := lp16 rlSpeed (z16 coef) (s16 s.filt.lpfSpeed)
  { s with
    filt := { s.filt with rlSteer := wrap16 rlSteer, lpfSteer := wrap16 lpfSteer, rlSpeed := wrap16 rlSpeed,
                          lpfSpeed := wrap16 lpfSpeed },
    der := { s.der with steerCmd := wrap16 (asr lpfSteer 4), speedCmd := wrap16 (asr lpfSpeed 4) } }

/-! ## S4: mixer (R275) -/

/-- The speed gain of the active profile: TURBO's own, "the normal gain constant otherwise" (R275). -/
def speedGain (c : ConfigRegs) : Half := if ctrlProfile c.ctrl = 2#2 then c.speedGainTurbo else c.speedGainNormal

/-- mR of MixStage() (R275). -/
def mixStageR (s : State) : Int :=
  mixR (s16 s.filt.lpfSpeed) (s16 s.filt.lpfSteer) (s16 (speedGain s.cfg)) (s16 s.cfg.steerGain) (s16 s.cfg.cmdMin)
    (s16 s.cfg.cmdMax)

/-- mL of MixStage() (R275). -/
def mixStageL (s : State) : Int :=
  mixL (s16 s.filt.lpfSpeed) (s16 s.filt.lpfSteer) (s16 (speedGain s.cfg)) (s16 s.cfg.steerGain) (s16 s.cfg.cmdMin)
    (s16 s.cfg.cmdMax)

/-! ## S5: gate (R277) -/

/-- Whether the gate passes the mixer's output: a change below 50 on both sides, and no communication timeout (R277). -/
def gateOpen (mR mL : Int) (commTO : Bool) (s : State) : Bool :=
  decide (mag (mR - s16 s.der.mixR) < Config.smallBound) && decide (mag (mL - s16 s.der.mixL) < Config.smallBound) &&
    !commTO

/-- Gate(mR, mL) (R277). -/
def gate (mR mL : Int) (commTO : Bool) (s : State) : State :=
  { s with
    out := { s.out with tgtR := if gateOpen mR mL commTO s then wrap16 mR else s.out.tgtR,
                        tgtL := if gateOpen mR mL commTO s then wrap16 mL else s.out.tgtL },
    der := { s.der with mixR := wrap16 mR, mixL := wrap16 mL } }

end Sys2Proof.Machine
end

