-- ==== Sys2Proof/Machine/Supervisor.lean ====
section
/-! DEFINITION. The safety supervisor inside TICK (43_supervisor.md): stages S3, S6 and S7, the end of tick, the power
button and the power-off sequence. -/

namespace Sys2Proof.Machine

/-- BUZ <- 0 (R320, R325). -/
def silence : Buzzer := { freq := 0#8, pattern := 0#8, toneId := 0#3 }

/-! ## S3: enable transition (R302) -/

/-- The condition of stage S3: DISABLED, and both conditioned commands within the dead-band (R302). -/
def enables (s : State) : Bool :=
  decide (s.sup.state = .disabled) && decide (mag (s16 s.der.steerCmd) < Config.smallBound) &&
    decide (mag (s16 s.der.speedCmd) < Config.smallBound)

/-- EnableTransition() (R302). enteredEnabled is enables of the state it runs on. -/
def enableTransition (s : State) : State :=
  if enables s then { s with sup := { s.sup with state := .enabled } } else s

/-! ## S6: monitor (R304 to R308) -/

/-- Board temperature: filter and calibration (R304). -/
def monitorTemp (s : State) : State :=
  let filt := lp32 (s16 s.snap.tempRaw) (z16 s.cfg.tempCoef) (s32 s.filt.tempFilt)
  { s with
    filt := { s.filt with tempFilt := wrap32 filt },
    der := { s.der with tempDegc := wrap16 (sat16 (asr (filt * s32 s.cfg.tcalMul) 16 + s16 s.cfg.tcalAdd)) } }

/-- Measured differential speed (R305). -/
def monitorSpeed (s : State) : State :=
  let l := s16 s.snap.measL
  let r := s16 s.snap.measR
  { s with der := { s.der with speedAvg := wrap16 (tdiv (if ctrlMirror s.cfg.ctrl then l - r else l + r) 2) } }

/-- Standstill: abs(SPEED_AVG) < STANDSTILL (R306). -/
def still (s : State) : Bool := decide (mag (s16 s.der.speedAvg) < s16 s.cfg.standstill)

/-- emT or emB: an emergency temperature or a dead battery, at standstill (R306). -/
def emergency (s : State) : Bool :=
  (decide (s16 s.cfg.tempOff ≤ s16 s.der.tempDegc) && still s) || (decide (s16 s.snap.bat < s16 s.cfg.batDead) && still s)

/-- Emergency disable: ENABLED to DISABLED only (R306). -/
def emergencyDisable (s : State) : State :=
  if decide (s.sup.state = .enabled) && emergency s then
    raiseEvent .monDis { s with sup := { s.sup with state := .disabled } }
  else s

/-- The tick's fault condition (R307). -/
def faulty (commTO : Bool) (s : State) : Bool :=
  decide (s.snap.errR ≠ 0#8) || decide (s.snap.errL ≠ 0#8) || commTO

/-- The tone's number, by priority (R308). -/
def toneSelect (commTO : Bool) (s : State) : Fin 6 :=
  if faulty commTO s then 1
  else if s16 s.cfg.tempWarn < s16 s.der.tempDegc then 2
  else if s16 s.snap.bat < s16 s.cfg.batFast then 3
  else if s16 s.snap.bat < s16 s.cfg.batSlow then 4
  else if s16 s.der.speedAvg < -s16 s.cfg.revCue then 5
  else 0

/-- Tone selection: BUZ from the tone table (R308). -/
def selectTone (commTO : Bool) (s : State) : State :=
  let id := toneSelect commTO s
  { s with out := { s.out with buz := toneOf (BitVec.ofNat 3 id.val) (toneEntry s.cfg id) } }

/-- Monitor() (R304 to R308), in this order. -/
def monitor (commTO : Bool) (s : State) : State := selectTone commTO (emergencyDisable (monitorSpeed (monitorTemp s)))

/-! ## Power-off entry (R324) -/

/-- EnterPowerOff() (R324). -/
def enterPowerOff (s : State) : State := raiseEvent .poweroff { s with sup := { state := .poweroff, poStep := 0#8 } }

/-! ## S7: inactivity (R312, R314) -/

/-- Whether both targets are below 50 in magnitude (R312). -/
def inactive (s : State) : Bool :=
  decide (mag (s16 s.out.tgtR) < Config.smallBound) && decide (mag (s16 s.out.tgtL) < Config.smallBound)

/-- INACT_CNT after the tick: saturating count, or 0 on activity (R312). -/
def inactCntNext (s : State) : Word :=
  if inactive s then (if s.der.inactCnt = 0xFFFFFFFF#32 then s.der.inactCnt else s.der.inactCnt + 1#32) else 0#32

/-- The inactivity counter (R312). -/
def countInactivity (s : State) : State := { s with der := { s.der with inactCnt := inactCntNext s } }

/-- Whether the count "exceeds" the duration: INACT_CNT > INACT_TICKS (R314). -/
def inactivityOver (s : State) : Bool := decide (s.cfg.inactTicks.toNat < s.der.inactCnt.toNat)

/-! ## End of tick (R301, R303) -/

/-- OUT_FLAGS.ENABLE <- (SUP.STATE = ENABLED) (R301). -/
def driveEnable (s : State) : State := { s with out := { s.out with enable := decide (s.sup.state = .enabled) } }

/-- EndOfTick(): the acknowledgement of an entry into ENABLED that lasted to here, then ENABLE (R303). -/
def endOfTick (enteredEnabled : Bool) (s : State) : State :=
  driveEnable
    (if enteredEnabled && decide (s.sup.state = .enabled) then
      raiseEvent .enabled { s with out := { s.out with ack := true } }
     else s)

/-! ## Power button (R320 to R322) -/

/-- ButtonPress() (R320). -/
def buttonPress (s : State) : State :=
  raiseEvent .btn
    { s with sup := { s.sup with state := .btnWait }, out := { s.out with buz := silence, enable := false } }

/-- Resume() (R322): the reset flags are cleared and operation resumes in DISABLED. -/
def resume (s : State) : State :=
  { s with ctl := { s.ctl with rstFlags := 0#4 }, sup := { s.sup with state := .disabled } }

/-- ButtonWaitStep() (R321). -/
def buttonWaitStep (s : State) : State :=
  let t :=
    if s.snap.btn then s
    else if rstSoft s.ctl.rstFlags || rstDebug s.ctl.rstFlags then resume s
    else enterPowerOff s
  { t with out := { t.out with enable := false } }

/-! ## Power-off sequence (R325) -/

/-- PowerOffStep() (R325): a step of the descending ramp, or the release of the latch and the halt. -/
def powerOffStep (s : State) : State :=
  let t :=
    if s.sup.poStep.toNat < s.cfg.poSteps.toNat then
      { s with out := { s.out with buz := { freq := s.sup.poStep, pattern := 0#8, toneId := 6#3 } },
               sup := { s.sup with poStep := s.sup.poStep + 1#8 } }
    else
      raiseEvent .halt
        { s with out := { s.out with buz := silence, powerLatch := false }, sup := { s.sup with state := .halted } }
  { t with out := { t.out with enable := false } }

end Sys2Proof.Machine
end

