-- ==== Sys2Proof/Machine/Tick.lean ====
section
/-! DEFINITION. TICK (42_tick_conditioner_mixer.md R260 to R264): checks, commit, dispatch on SUP.STATE, the stages S1 to
S8 and the end of tick. -/

namespace Sys2Proof.Machine

/-! ## The checks (R261) -/

/-- What makes a configuration bad for a TICK: an empty command range, equal sentinels, PROFILE = 3 (R46, R261). -/
def badTickConfig (s : State) : Bool :=
  badRange s || decide (s.cfg.startSent = s.cfg.consumedSent) || decide (ctrlProfile s.cfg.ctrl = 3#2)

/-- Whether a TICK in this state would run the pipeline: DISABLED or ENABLED (R261, R263). -/
def isPipeline (s : State) : Bool := decide (s.sup.state = .disabled) || decide (s.sup.state = .enabled)

/-- The error a TICK's configuration checks raise, in the order of R261; the HALTED check stands before them. -/
def tickError (s : State) : Option ErrorKind :=
  if isPipeline s then
    if !configured s then some .cfgUnset
    else if badTickConfig s then some .badCfg
    else if s16 s.cfg.rate < 0 then some .rateNeg
    else none
  else none

/-! ## The commit (R262) -/

/-- Commit start: the pulses end, every input port is sampled at once, TICK_CNT counts (R262). -/
def commitTick (s : State) : State :=
  { s with
    out := { s.out with ack := false, rxRestart := false, txStart := false },
    snap := s.ports,
    der := { s.der with tickCnt := s.der.tickCnt + 1#32 } }

/-! ## The pipeline (R263) -/

/-- Stages S1 and S2. -/
def stagesSourceCondition (s : State) : State := condition (commandSource s)

/-- Stages S3 to S6, after S1 and S2; commTO is the tick's timeout flag. -/
def stagesMixMonitor (commTO : Bool) (s : State) : State :=
  let s3 := enableTransition s
  monitor commTO (gate (mixStageR s3) (mixStageL s3) commTO s3)

/-- Stages S7 and S8: a power-off entry skips S8 (R314). -/
def stagesInactivityFeedback (s : State) : State :=
  let s7 := countInactivity s
  if inactivityOver s7 then enterPowerOff s7 else feedback s7

/-- Stages S1 to S8 and the end of tick, in their fixed order (R263). -/
def pipeline (s : State) : State :=
  let s2 := stagesSourceCondition s
  let commTO := commTimeout s2
  endOfTick (enables s2) (stagesInactivityFeedback (stagesMixMonitor commTO s2))

/-- The dispatch on SUP.STATE after the commit (R263). HALTED does not get here (R261). -/
def dispatchTick (s : State) : State :=
  match s.sup.state with
  | .poweroff => powerOffStep s
  | .btnWait => buttonWaitStep s
  | .disabled => if s.snap.btn then buttonPress s else pipeline s
  | .enabled => if s.snap.btn then buttonPress s else pipeline s
  | .halted => s

/-- TICK (R260): the checks, then the commit, then the dispatch. -/
def execTick (s : State) : Outcome :=
  runCommand s
    (match tickError s with
     | some e => .error e
     | none => .ok (dispatchTick (commitTick s)))

end Sys2Proof.Machine
end

