-- ==== Sys2Proof/Machine/Transfer.lean ====
section
/-! DEFINITION. The register transfer commands NOP, LI, LUI, MOV, LDR and STR (41_register_transfer.md). -/

namespace Sys2Proof.Machine

/-- NOP (R240): nothing. -/
def execNop (s : State) : Outcome := runCommand s (.ok s)

/-- LI (R242): the immediate, sign-extended. -/
def execLi (rd : Reg) (imm : Half) (s : State) : Outcome :=
  runCommand s (.ok (setReg rd (imm.signExtend 32) s))

/-- LUI (R244): the upper half; the low half of Rd is kept. -/
def execLui (rd : Reg) (imm : Half) (s : State) : Outcome :=
  runCommand s (.ok (setReg rd (imm ++ lowHalf (getReg s rd)) s))

/-- MOV (R246). -/
def execMov (rd ra : Reg) (s : State) : Outcome := runCommand s (.ok (setReg rd (getReg s ra) s))

/-- Whether an offset is a multiple of 4 (R108). -/
def isAligned (off : Offset) : Bool := off.toNat % 4 == 0

/-- The register LDR and STR name: alignment is checked before mapping (R248, R250, R401). -/
def namedReg (off : Offset) : Except ErrorKind HostReg :=
  if isAligned off then
    match hostRegAt off with
    | some r => .ok r
    | none => .error .noReg
  else .error .align

/-- LDR (R248): the 32-bit host view of the register; an unwritten must-write register gives a free value (U1). -/
def execLdr (r : Reg) (off : Offset) (s : State) : Outcome :=
  runCommand s
    (match namedReg off with
     | .ok h => .ok (setReg r (view s h) (afterRead h s))
     | .error e => .error e)

/-- STR (R250): the write rule of the register's class; a RO or CMD register raises E_RO. -/
def execStr (r : Reg) (off : Offset) (s : State) : Outcome :=
  runCommand s
    (match namedReg off with
     | .ok h => if isWritable h then .ok (store h (getReg s r) s) else .error .ro
     | .error e => .error e)

end Sys2Proof.Machine
end

