-- ==== Sys2Proof/Machine/Dispatch.lean ====
section
/-! DEFINITION. One arm per command: the meaning of each (R134's last column). -/

namespace Sys2Proof.Machine

def exec (i : Instr) (s : State) : Host.Outcome State Fault Refusal :=
  match i with
  | .nop => Sys2Proof.Machine.execNop s
  | .lpf16 rd ra rb => Sys2Proof.Machine.execLpf16 rd ra rb s
  | .lpf32 rd ra rb => Sys2Proof.Machine.execLpf32 rd ra rb s
  | .rl16 rd ra rb => Sys2Proof.Machine.execRl16 rd ra rb s
  | .mixr rd ra rb rc => Sys2Proof.Machine.execMixr rd ra rb rc s
  | .mixl rd ra rb rc => Sys2Proof.Machine.execMixl rd ra rb rc s
  | .sat16 rd ra => Sys2Proof.Machine.execSat16 rd ra s
  | .xor16 rd ra rb => Sys2Proof.Machine.execXor16 rd ra rb s
  | .frmchk rd => Sys2Proof.Machine.execFrmchk rd s
  | .li rd imm => Sys2Proof.Machine.execLi rd imm s
  | .lui rd imm => Sys2Proof.Machine.execLui rd imm s
  | .mov rd ra => Sys2Proof.Machine.execMov rd ra s
  | .ldr r off => Sys2Proof.Machine.execLdr r off s
  | .str r off => Sys2Proof.Machine.execStr r off s
  | .tick => Sys2Proof.Machine.execTick s
  | .swreset => Sys2Proof.Machine.execSwreset s

end Sys2Proof.Machine
end

