-- ==== Sys2Proof/Machine/Bus.lean ====
section
/-! DEFINITION. What the outside world does to the block: host reads and writes of the window, a command word written to
CMD, DMA byte writes, the levels on the input ports, the reset input (20_memory.md R100 to R118). -/

namespace Sys2Proof.Machine

/-- The register a host access reaches: 32 bits wide, at a multiple of 4, at a mapped offset; none is a bus error
(R102). -/
def busTarget (width : Nat) (off : Offset) : Option HostReg :=
  if width = 32 ∧ isAligned off = true then hostRegAt off else none

/-- A bus-error response: no effect on any block state (R102, R405). -/
def busError (s : State) : State := { s with bus := .busError }

/-- A host read (R102): the register's host view, without side effect (R110). -/
def hostRead (width : Nat) (off : Offset) (s : State) : State :=
  match busTarget width off with
  | some r => { afterRead r s with bus := .data (view s r) }
  | none => busError s

/-- The block with a command word in CMD, about to execute it: the word is stored before it executes (R33). -/
def withCommand (w : Word) (s : State) : State := { s with ctl := { s.ctl with cmd := w }, bus := .done }

/-- The error of an illegal word: in HALTED every word raises E_HALTED first (R136, R137, R404). -/
def illegalError (s : State) : ErrorKind := if s.sup.state = .halted then .halted else .illegal

/-- A command word written to CMD: stored, then executed as a command (R31, R33, R130). -/
def issueCommand (w : Word) (s : State) : Outcome :=
  match decode w with
  | .ok i => exec i (withCommand w s)
  | .error _ => .next (raiseError (illegalError s) (withCommand w s))

/-- A host write (R102): to CMD a command, to a RW or W1C register its class's rule, to a RO register a bus error. -/
def hostWrite (width : Nat) (off : Offset) (v : Word) (s : State) : Outcome :=
  match busTarget width off with
  | some .cmd => issueCommand v s
  | some r => if isWritable r then .next { store r v s with bus := .done } else .next (busError s)
  | none => .next (busError s)

/-- A DMA write of a byte at address i: RXBUF byte i becomes it (R103). -/
def dmaWrite (i : Fin 8) (b : Byte) (s : State) : State := { s with mem := writeByte s.mem (rxBase + i.val) b }

/-- One action of an agent, atomic (R109, R113). -/
def performAction (a : AgentAction) (s : State) : Outcome :=
  match a with
  | .hostRead width off => .next (hostRead width off s)
  | .hostWrite width off v => hostWrite width off v s
  | .dmaWrite i b => .next (dmaWrite i b s)
  | .drivePorts p c => .next { s with ports := p, rstCause := c }
  | .hardReset => .next (hardwareReset s)

/-- The next thing that happens: the oldest pending action. With none the block does nothing (R427, R461). -/
def nextAction (s : State) : Outcome :=
  match s.pending with
  | [] => .next s
  | a :: rest => performAction a { s with pending := rest }

/-- The actions before which a command word stands: a 32-bit host write of it to CMD (R33). -/
def issueFirst (w : Word) (s : State) : State := { s with pending := .hostWrite 32 0x020#12 w :: s.pending }

end Sys2Proof.Machine
end

