-- ==== Sys2Proof/Machine/Step.lean ====
section
/-! DEFINITION. One step of the machine: the oldest pending action of the outside world, atomic (R15, R109, R113). -/

namespace Sys2Proof.Machine

/-- One step. Log entries 1 and 6. -/
def step (s : State) : Host.Outcome State Fault Refusal := nextAction s

/-- The machine about to be given the command word w (its low nbits bits): a host write of it to CMD is the next action.
There is no fetch (R32, R116); this stands for the host issuing the command. Log entry 1. -/
def State.withFetchWord (s : State) (nbits w : Nat) : State := issueFirst (BitVec.ofNat 32 (w % 2 ^ nbits)) s

end Sys2Proof.Machine
end

