-- ==== Sys2Proof/Safety.lean ====
section
/-! DEFINITION. The terms claims are stated in: the error table of R400 and R401 and the record of R402 as the spec
prints them, the invariant of the machine, the host's duties (R445, R446), and what a finished run is (R466). -/

namespace Sys2Proof.Machine

/-! ## Errors, from the tables of 60_exceptions.md -/

/-- The state a command that raises the error with this code leaves (R402): in state s, CMD already holds the word. -/
def errorRecord (code : BitVec 4) (s : State) : State :=
  { s with
    ctl := { s.ctl with
      status := if s.ctl.status.err then { s.ctl.status with ovf := true }
                else { err := true, ovf := s.ctl.status.ovf, errCode := code },
      errCmd := if s.ctl.status.err then s.ctl.errCmd else s.ctl.cmd,
      irqPend := s.ctl.irqPend ||| 0x001#11 } }

/-- Whether TICK makes its configuration checks: in DISABLED and ENABLED (R261). -/
def checksConfig (s : State) : Prop := s.sup.state = .disabled ∨ s.sup.state = .enabled

/-- The cause of each error, for each command that can raise it: R400's columns "cause" and "raised by". E_ILLEGAL is not
here: a decoded command is not illegal. -/
def errorCause (e : ErrorKind) (i : Instr) (s : State) : Prop :=
  match e with
  | .illegal => False
  | .halted => s.sup.state = .halted ∨ (i = .swreset ∧ s.sup.state = .poweroff)
  | .align => ∃ r off, (i = .ldr r off ∨ i = .str r off) ∧ off.toNat % 4 ≠ 0
  | .noReg => ∃ r off, (i = .ldr r off ∨ i = .str r off) ∧ hostRegAt off = none
  | .ro => ∃ r off h, i = .str r off ∧ hostRegAt off = some h ∧ (accessOf h = .ro ∨ accessOf h = .cmd)
  | .cfgUnset =>
    (i = .tick ∧ checksConfig s ∧ s.ctl.cfgValid ≠ 0x1FFFF#17) ∨
      (∃ r, i = .frmchk r ∧ (s.ctl.cfgValid.getLsbD 13 = false ∨ s.ctl.cfgValid.getLsbD 14 = false))
  | .badCfg =>
    (i = .tick ∧ checksConfig s ∧ (s.cfg.cmdMax.toInt < s.cfg.cmdMin.toInt ∨ s.cfg.startSent = s.cfg.consumedSent ∨
        s.cfg.ctrl.extractLsb' 3 2 = 3#2)) ∨
      (∃ d a b c, (i = .mixr d a b c ∨ i = .mixl d a b c) ∧ s.cfg.cmdMax.toInt < s.cfg.cmdMin.toInt) ∨
      (∃ r, i = .frmchk r ∧ s.cfg.startSent = s.cfg.consumedSent)
  | .rateNeg =>
    (i = .tick ∧ checksConfig s ∧ s.cfg.rate.toInt < 0) ∨
      (∃ d a b, i = .rl16 d a b ∧ ((getReg s b).extractLsb' 0 16).toInt < 0)

/-- The order of R401. -/
def errorPriority : List ErrorKind := [.halted, .illegal, .align, .noReg, .ro, .cfgUnset, .badCfg, .rateNeg]

/-- e is the error a command reports: its cause holds, and no cause of an error before it in the order of R401 does. -/
def reports (e : ErrorKind) (i : Instr) (s : State) : Prop :=
  errorCause e i s ∧ ∃ before after, errorPriority = before ++ e :: after ∧ ∀ d ∈ before, ¬errorCause d i s

/-- No error of R400 applies to the command. -/
def errorFree (i : Instr) (s : State) : Prop := ∀ e, ¬errorCause e i s

/-! ## TICK -/

/-- A TICK that passes its checks (R261). -/
def TickAccepted (s : State) : Prop := errorFree .tick s

/-- A pipeline TICK: DISABLED or ENABLED, its checks pass, and the button is not pressed (R261, R263). -/
structure PipelineTick (s : State) : Prop where
  state : s.sup.state = .disabled ∨ s.sup.state = .enabled
  written : s.ctl.cfgValid = 0x1FFFF#17
  range : s.cfg.cmdMin.toInt ≤ s.cfg.cmdMax.toInt
  sentinels : s.cfg.startSent ≠ s.cfg.consumedSent
  profile : s.cfg.ctrl.extractLsb' 3 2 ≠ 3#2
  rate : 0 ≤ s.cfg.rate.toInt
  released : s.ports.btn = false

/-- The tick's commTO, seen in the state after the TICK: LINK.TIMEOUT with the serial source, else the sampled
ext_timeout_in (R265). -/
def timedOut (t : State) : Bool := if t.cfg.ctrl.getLsbD 0 then t.der.linkTimeout else t.snap.extTimeout

/-- Both conditioned commands within the dead-band (R302). -/
def withinDeadBand (t : State) : Prop := mag (t.der.steerCmd.toInt) < 50 ∧ mag (t.der.speedCmd.toInt) < 50

/-- The emergency condition of R306. -/
def emergencyHolds (t : State) : Prop :=
  mag (t.der.speedAvg.toInt) < t.cfg.standstill.toInt ∧
    (t.cfg.tempOff.toInt ≤ t.der.tempDegc.toInt ∨ t.snap.bat.toInt < t.cfg.batDead.toInt)

/-! ## The supervisor's transitions (R300) -/

/-- The states a TICK can lead to, a stay included, from each state (the table of R300). -/
def tickMoves : SupState → List SupState
  | .disabled => [.disabled, .enabled, .btnWait, .poweroff]
  | .enabled => [.enabled, .disabled, .btnWait, .poweroff]
  | .btnWait => [.btnWait, .disabled, .poweroff]
  | .poweroff => [.poweroff, .halted]
  | .halted => [.halted]

/-! ## The invariant -/

/-- What holds of every state a run reaches. Each field is a rule of the spec or follows from several. -/
structure Inv (s : State) : Prop where
  /-- The memory is in its canonical form. -/
  memWf : s.mem.wf
  /-- Only bytes of RXBUF and TXBUF are listed (R58, R101). -/
  memInBuffers : s.mem.inBuffers = true
  /-- "ENABLE is 1 exactly while the state is ENABLED, as seen between commands" (R301). -/
  enable : s.out.enable = true ↔ s.sup.state = .enabled
  /-- The power latch is released exactly in HALTED (R54, R325). -/
  latch : s.out.powerLatch = false ↔ s.sup.state = .halted
  /-- ERRCODE is 0 exactly while ERR is 0 (R34, U9). -/
  errCode : s.ctl.status.errCode = 0#4 ↔ s.ctl.status.err = false
  /-- "Codes 9–15 are never produced" (R400). -/
  errCodeBound : s.ctl.status.errCode.toNat ≤ 8
  /-- FB_DIV is 0..19 (R48, R421). -/
  fbDiv : s.der.fbDiv.toNat < 20
  /-- BUZ.TONE_ID 7 is never produced (U9). -/
  toneId : s.out.buz.toneId ≠ 7#3
  /-- DISABLED is left only by a TICK that found the block configured, and only a reset clears CFGVALID (R59, R261). -/
  configured : s.sup.state ≠ .disabled → s.ctl.cfgValid = 0x1FFFF#17

/-! ## The host's duties, premises of a claim and no rules of the block -/

/-- R445 step 2 and the checked relations: the block is ready for TICK. -/
def BootDuties (s : State) : Prop :=
  s.ctl.cfgValid = 0x1FFFF#17 ∧ 0 ≤ s.cfg.rate.toInt ∧ s.cfg.startSent ≠ s.cfg.consumedSent ∧
    s.cfg.cmdMin.toInt ≤ s.cfg.cmdMax.toInt ∧ s.cfg.ctrl.extractLsb' 3 2 ≠ 3#2

/-- R446: the orders of the thresholds that the block does not check. -/
def UncheckedDuties (c : ConfigRegs) : Prop :=
  c.tempWarn.toInt ≤ c.tempOff.toInt ∧ c.batDead.toInt ≤ c.batFast.toInt ∧ c.batFast.toInt ≤ c.batSlow.toInt ∧
    c.filtCoefBrake.toNat ≤ c.filtCoef.toNat

/-- The DMA agent's writes of one whole frame, byte 0 first: what R451 has a model assume between two TICKs. -/
def frameWrites (f : Vector Byte 8) : List AgentAction := (List.finRange 8).map (fun i => .dmaWrite i f[i])

/-! ## Runs (R466) -/

/-- A host write of a command word to CMD. -/
def issue (w : Word) : AgentAction := .hostWrite 32 0x020#12 w

/-- The commands of a list one after the other, none answered otherwise than by a next state. -/
def execAll : List Instr → State → Outcome
  | [], s => .next s
  | i :: is, s =>
    match exec i s with
    | .next t => execAll is t
    | .fault r => .fault r
    | .refused r => .refused r

/-- The host has stopped: no action of the outside world is still to happen. That the model holds these actions in a
list is its own choice, log entry 1. -/
def HostStopped (s : State) : Prop := s.pending = []

/-- "A run is finished when SUP.STATE = HALTED ... or when the host stops" (R466). -/
def Finished (s : State) : Prop := s.sup.state = .halted ∨ HostStopped s

/-- "a claim about a run normally takes STATUS.ERR = 0 at its end as a premise" (R466). -/
def CleanEnd (s : State) : Prop := s.ctl.status.err = false

/-- R467 item 3: the two states in which commands return without progress. -/
def Stuck (s : State) : Prop := (s.sup.state = .btnWait ∧ s.ports.btn = true) ∨ s.sup.state = .halted

/-! ## What a read of each register keeps of a written word (R31, R42, R47) -/

/-- The width of a register that STR may write and a read returns whole, and whether it is signed (R31). -/
def registerType : HostReg → Nat × Bool
  | .irqEn => (11, false)
  | .ctrl => (5, false)
  | .must .filtCoef => (16, false)
  | .must .filtCoefBrake => (16, false)
  | .must .tempCoef => (16, false)
  | .must .startSent => (16, false)
  | .must .consumedSent => (16, false)
  | .must .inactTicks => (32, false)
  | .must .tcalMul => (32, true)
  | .must _ => (16, true)
  | .cmdMin => (16, true)
  | .cmdMax => (16, true)
  | .standstill => (16, true)
  | .revCue => (16, true)
  | .serTimeout => (16, false)
  | .poSteps => (8, false)
  | .toneTab _ => (16, false)
  | .rlSteer => (16, true)
  | .rlSpeed => (16, true)
  | .lpfSteer => (16, true)
  | .lpfSpeed => (16, true)
  | .tempFilt => (32, true)
  | _ => (32, false)

/-- Bits [N−1:0] of a word, widened again to 32 bits by the register's type (R31). -/
def throughType (ty : Nat × Bool) (v : Word) : Word :=
  if ty.2 then (v.setWidth ty.1).signExtend 32 else (v.setWidth ty.1).setWidth 32

/-! ## The host view of each register as a number, from the stored fields (R31 to R58) -/

/-- A one-bit field at bit k of its register. -/
def flagValue (b : Bool) (k : Nat) : Int := if b then 2 ^ k else 0

/-- SUP.STATE: "0 DISABLED, 1 ENABLED, 2 BTN_WAIT, 3 POWEROFF, 4 HALTED" (R55). -/
def supStateValue : SupState → Int
  | .disabled => 0
  | .enabled => 1
  | .btnWait => 2
  | .poweroff => 3
  | .halted => 4

/-- Four buffer bytes from an address on, the first one lowest (R104, R105, R107). -/
def bufferWordValue (m : Memory) (a : Nat) : Int :=
  (readByte m a).toNat + 256 * (readByte m (a + 1)).toNat + 65536 * (readByte m (a + 2)).toNat +
    16777216 * (readByte m (a + 3)).toNat

/-- A written must-write register: signed or unsigned by its type (R42). -/
def mustValue (c : ConfigRegs) : MustReg → Int
  | .rate => c.rate.toInt
  | .filtCoef => c.filtCoef.toNat
  | .filtCoefBrake => c.filtCoefBrake.toNat
  | .tempCoef => c.tempCoef.toNat
  | .speedGainNormal => c.speedGainNormal.toInt
  | .speedGainTurbo => c.speedGainTurbo.toInt
  | .steerGain => c.steerGain.toInt
  | .tempWarn => c.tempWarn.toInt
  | .tempOff => c.tempOff.toInt
  | .batSlow => c.batSlow.toInt
  | .batFast => c.batFast.toInt
  | .batDead => c.batDead.toInt
  | .inactTicks => c.inactTicks.toNat
  | .startSent => c.startSent.toNat
  | .consumedSent => c.consumedSent.toNat
  | .tcalMul => c.tcalMul.toInt
  | .tcalAdd => c.tcalAdd.toInt

/-- The number a read of each register returns: an integer register its value, a bit field the sum of its fields at their
places (R30 to R58). For a must-write register this is its value once it is written. -/
def hostValue (s : State) : HostReg → Int
  | .x i => s.regs[i].toNat
  | .cmd => s.ctl.cmd.toNat
  | .status => flagValue s.ctl.status.err 0 + flagValue s.ctl.status.ovf 1 + 16 * s.ctl.status.errCode.toNat
  | .errCmd => s.ctl.errCmd.toNat
  | .cfgValid => s.ctl.cfgValid.toNat
  | .irqEn => s.ctl.irqEn.toNat
  | .irqPend => s.ctl.irqPend.toNat
  | .rstFlags => s.ctl.rstFlags.toNat
  | .ident => 0x48534201
  | .ctrl => s.cfg.ctrl.toNat
  | .must m => mustValue s.cfg m
  | .cmdMin => s.cfg.cmdMin.toInt
  | .cmdMax => s.cfg.cmdMax.toInt
  | .standstill => s.cfg.standstill.toInt
  | .revCue => s.cfg.revCue.toInt
  | .serTimeout => s.cfg.serTimeout.toNat
  | .poSteps => s.cfg.poSteps.toNat
  | .toneTab 0 => 0
  | .toneTab 1 => s.cfg.toneTab1.toNat
  | .toneTab 2 => s.cfg.toneTab2.toNat
  | .toneTab 3 => s.cfg.toneTab3.toNat
  | .toneTab 4 => s.cfg.toneTab4.toNat
  | .toneTab 5 => s.cfg.toneTab5.toNat
  | .rlSteer => s.filt.rlSteer.toInt
  | .rlSpeed => s.filt.rlSpeed.toInt
  | .lpfSteer => s.filt.lpfSteer.toInt
  | .lpfSpeed => s.filt.lpfSpeed.toInt
  | .tempFilt => s.filt.tempFilt.toInt
  | .tempDegc => s.der.tempDegc.toInt
  | .steerCmd => s.der.steerCmd.toInt
  | .speedCmd => s.der.speedCmd.toInt
  | .mixR => s.der.mixR.toInt
  | .mixL => s.der.mixL.toInt
  | .cmd1 => s.der.cmd1.toInt
  | .cmd2 => s.der.cmd2.toInt
  | .serCnt => s.der.serCnt.toNat
  | .link => flagValue s.der.linkTimeout 0
  | .inactCnt => s.der.inactCnt.toNat
  | .fbDiv => s.der.fbDiv.toNat
  | .tickCnt => s.der.tickCnt.toNat
  | .sup => supStateValue s.sup.state + 256 * s.sup.poStep.toNat
  | .speedAvg => s.der.speedAvg.toInt
  | .inSteer => s.snap.steer.toInt
  | .inSpeed => s.snap.speed.toInt
  | .inFlags =>
    flagValue s.snap.brake 0 + flagValue s.snap.btn 1 + flagValue s.snap.txBusy 2 + flagValue s.snap.extTimeout 3
  | .inMeasR => s.snap.measR.toInt
  | .inMeasL => s.snap.measL.toInt
  | .inErr => s.snap.errR.toNat + 256 * s.snap.errL.toNat
  | .inTempRaw => s.snap.tempRaw.toInt
  | .inBat => s.snap.bat.toInt
  | .tgtR => s.out.tgtR.toInt
  | .tgtL => s.out.tgtL.toInt
  | .outFlags =>
    flagValue s.out.enable 0 + flagValue s.out.ctrlOpen 1 + flagValue s.out.powerLatch 2 + flagValue s.out.ack 3 +
      flagValue s.out.rxRestart 4 + flagValue s.out.txStart 5
  | .buz => s.out.buz.freq.toNat + 256 * s.out.buz.pattern.toNat + 65536 * s.out.buz.toneId.toNat
  | .rxWord j => bufferWordValue s.mem (0x200 + 4 * j.val)
  | .txWord j => bufferWordValue s.mem (0x240 + 4 * j.val)

/-- A register no one has written since the reset, although it must be (R43): its content is unspecified. -/
def Unspecified (s : State) (h : HostReg) : Prop := ∃ m, h = .must m ∧ s.ctl.cfgValid.getLsbD m.index.val = false

/-! ## States that differ only in what no one has written (R43, U1) -/

/-- Two configurations that agree on every register but the unwritten must-write ones. -/
structure AgreeWritten (valid : BitVec 17) (c d : ConfigRegs) : Prop where
  ctrl : c.ctrl = d.ctrl
  cmdMin : c.cmdMin = d.cmdMin
  cmdMax : c.cmdMax = d.cmdMax
  standstill : c.standstill = d.standstill
  revCue : c.revCue = d.revCue
  serTimeout : c.serTimeout = d.serTimeout
  poSteps : c.poSteps = d.poSteps
  tones : ∀ k, toneEntry c k = toneEntry d k
  must : ∀ m : MustReg, valid.getLsbD m.index.val = true → mustView c m = mustView d m

/-- Two states that differ at most in the contents of must-write registers no one has written since the reset. -/
def SameButUnwritten (s t : State) : Prop := ∃ d, t = { s with cfg := d } ∧ AgreeWritten s.ctl.cfgValid s.cfg d

end Sys2Proof.Machine
end

