-- ==== Sys2Proof/Certificates/Slice0/Obligations.lean ====
section
/-! DEFINITION. The statements for the provers, in the order of the spec's files. Each cites the rules it formalises. -/

open Sys2Proof
open Sys2Proof.Machine

/-! ## Encoding (30_encoding.md) -/

/-- Words written out from the encodings of R134 (the examples of R140, R200, R242 to R250, R340, R342 and of
95_test_vectors.md section 3) decode to the commands they stand for: one of each family, and each format. -/
def Obligations.DecodeOfWordsFromTheSpec : Prop :=
  decode 0x00000000#32 = .ok .nop ∧
  decode 0x04A60000#32 = .ok (.lpf16 1 2 3) ∧
  decode 0x0CA60000#32 = .ok (.rl16 1 2 3) ∧
  decode 0x10A70000#32 = .ok (.mixr 1 2 3 4) ∧
  decode 0x16A70000#32 = .ok (.mixl 5 2 3 4) ∧
  decode 0x1BE00000#32 = .ok (.sat16 7 6) ∧
  decode 0x1CA60000#32 = .ok (.xor16 1 2 3) ∧
  decode 0x20800000#32 = .ok (.frmchk 1) ∧
  decode 0x4080FFFF#32 = .ok (.li 1 0xFFFF#16) ∧
  decode 0x46002000#32 = .ok (.lui 4 0x2000#16) ∧
  decode 0x48A00000#32 = .ok (.mov 1 2) ∧
  decode 0x4C800088#32 = .ok (.ldr 1 0x088#12) ∧
  decode 0x53800044#32 = .ok (.str 7 0x044#12) ∧
  decode 0x80000000#32 = .ok .tick ∧
  decode 0x84000000#32 = .ok .swreset

/-- R140: the command word is the sum of the shifted fields of its format, with R140's four examples. -/
def Obligations.EncodeIsTheFieldFormula : Prop :=
  (∀ (rd ra rb rc : Reg) (imm : Half) (off : Offset),
    (encode .nop).toNat = 0x00 <<< 26 ∧
    (encode (.lpf16 rd ra rb)).toNat = (0x01 <<< 26 ||| rd.val <<< 23 ||| ra.val <<< 20 ||| rb.val <<< 17) ∧
    (encode (.lpf32 rd ra rb)).toNat = (0x02 <<< 26 ||| rd.val <<< 23 ||| ra.val <<< 20 ||| rb.val <<< 17) ∧
    (encode (.rl16 rd ra rb)).toNat = (0x03 <<< 26 ||| rd.val <<< 23 ||| ra.val <<< 20 ||| rb.val <<< 17) ∧
    (encode (.mixr rd ra rb rc)).toNat =
      (0x04 <<< 26 ||| rd.val <<< 23 ||| ra.val <<< 20 ||| rb.val <<< 17 ||| rc.val <<< 14) ∧
    (encode (.mixl rd ra rb rc)).toNat =
      (0x05 <<< 26 ||| rd.val <<< 23 ||| ra.val <<< 20 ||| rb.val <<< 17 ||| rc.val <<< 14) ∧
    (encode (.sat16 rd ra)).toNat = (0x06 <<< 26 ||| rd.val <<< 23 ||| ra.val <<< 20) ∧
    (encode (.xor16 rd ra rb)).toNat = (0x07 <<< 26 ||| rd.val <<< 23 ||| ra.val <<< 20 ||| rb.val <<< 17) ∧
    (encode (.frmchk rd)).toNat = (0x08 <<< 26 ||| rd.val <<< 23) ∧
    (encode (.li rd imm)).toNat = (0x10 <<< 26 ||| rd.val <<< 23 ||| imm.toNat) ∧
    (encode (.lui rd imm)).toNat = (0x11 <<< 26 ||| rd.val <<< 23 ||| imm.toNat) ∧
    (encode (.mov rd ra)).toNat = (0x12 <<< 26 ||| rd.val <<< 23 ||| ra.val <<< 20) ∧
    (encode (.ldr rd off)).toNat = (0x13 <<< 26 ||| rd.val <<< 23 ||| off.toNat) ∧
    (encode (.str rd off)).toNat = (0x14 <<< 26 ||| rd.val <<< 23 ||| off.toNat) ∧
    (encode .tick).toNat = 0x20 <<< 26 ∧
    (encode .swreset).toNat = 0x21 <<< 26) ∧
  encode (.lpf16 1 2 3) = 0x04A60000#32 ∧
  encode (.li 1 (BitVec.ofInt 16 (-1))) = 0x4080FFFF#32 ∧
  encode (.str 7 0x044#12) = 0x53800044#32 ∧
  encode .tick = 0x80000000#32

/-- Decode and encode agree on every command, with every operand at every value its field admits (R131 to R134). -/
def Obligations.DecodeEncodeRoundTrip : Prop :=
  ∀ i : Instr, decode (encode i) = .ok i

/-- A word that decodes is the encoding of its command: no bit of the word is ignored (R130, R135). -/
def Obligations.DecodedWordIsItsEncoding : Prop :=
  ∀ (w : Word) (i : Instr), decode w = .ok i → encode i = w

/-- R134: the rows as the spec prints them; a word encodes the command of a row exactly when `(w & mask) = match`; and
the rows are disjoint. -/
def Obligations.OpcodeTableDecidesDecoding : Prop :=
  (opcodeTable.map fun r => (r.mnemonic, r.pattern.toNat, r.mask.toNat)) =
    [("NOP", 0x00000000, 0xFFFFFFFF), ("LPF16", 0x04000000, 0xFC01FFFF), ("LPF32", 0x08000000, 0xFC01FFFF),
     ("RL16", 0x0C000000, 0xFC01FFFF), ("MIXR", 0x10000000, 0xFC003FFF), ("MIXL", 0x14000000, 0xFC003FFF),
     ("SAT16", 0x18000000, 0xFC0FFFFF), ("XOR16", 0x1C000000, 0xFC01FFFF), ("FRMCHK", 0x20000000, 0xFC7FFFFF),
     ("LI", 0x40000000, 0xFC7F0000), ("LUI", 0x44000000, 0xFC7F0000), ("MOV", 0x48000000, 0xFC0FFFFF),
     ("LDR", 0x4C000000, 0xFC7FF000), ("STR", 0x50000000, 0xFC7FF000), ("TICK", 0x80000000, 0xFFFFFFFF),
     ("SWRESET", 0x84000000, 0xFFFFFFFF)] ∧
  (∀ (w : Word), ∀ r ∈ opcodeTable,
    (w &&& r.mask = r.pattern ↔ ∃ i, decode w = .ok i ∧ i.mnemonic = r.mnemonic)) ∧
  (∀ (w : Word), ∀ r ∈ opcodeTable, ∀ q ∈ opcodeTable, w &&& r.mask = r.pattern → w &&& q.mask = q.pattern → r = q)

/-- R136 with R402: outside HALTED a word of no row, written to CMD, is kept in CMD, leaves the error record of E_ILLEGAL,
and changes nothing else. R404: in HALTED every word written to CMD, whatever its bits, does so with E_HALTED.
The pending list and the bus answer are the model's: log entries 1 and 7. -/
def Obligations.RefusedWordOnlyRecordsItsError : Prop :=
  ∀ (s : State) (w : Word) (rest : List AgentAction), s.pending = issue w :: rest →
    (s.sup.state ≠ .halted → (∀ r ∈ opcodeTable, w &&& r.mask ≠ r.pattern) →
      step s = .next (errorRecord 1#4 { s with pending := rest, bus := .done, ctl := { s.ctl with cmd := w } })) ∧
    (s.sup.state = .halted →
      step s = .next (errorRecord 2#4 { s with pending := rest, bus := .done, ctl := { s.ctl with cmd := w } }))

/-- R139: run from any state outside HALTED, `LI32 Rd, v` puts wrap_32(v) into Rd, `CLR Rd` puts 0 into Rd, and
`WCFG name, v` writes the register it names and leaves v in R7; each changes nothing else. -/
def Obligations.PseudoCommandsDoWhatTheyExpandTo : Prop :=
  ∀ (s : State) (d : Nat) (v : Int) (h : HostReg), s.sup.state ≠ .halted → (hd : d < 8) →
    execAll (Asm.li32 d v).expand s = .next { s with regs := s.regs.set d (BitVec.ofInt 32 v) hd } ∧
    execAll (Asm.clr d).expand s = .next { s with regs := s.regs.set d 0#32 hd } ∧
    (isWritable h = true →
      execAll (Asm.wcfg h v).expand s =
        .next (store h (BitVec.ofInt 32 v) { s with regs := s.regs.set 7 (BitVec.ofInt 32 v) }))

/-! ## The step, the host window and its agents (20_memory.md) -/

/-- A command word at the head of the pending actions is stored in CMD and runs as the command it decodes to; the step
adds that the action is no longer pending and that the host's write was taken (R31, R33, R130).
The pending list and the bus answer are the model's: log entries 1 and 7. -/
def Obligations.StepRunsTheDecodedCommand : Prop :=
  ∀ (s : State) (w : Word) (i : Instr) (rest : List AgentAction),
    s.pending = issue w :: rest → decode w = .ok i →
    step s = exec i { s with pending := rest, bus := .done, ctl := { s.ctl with cmd := w } }

/-- Nothing stops the machine: every word and every access has a meaning (R461, R467 items 2 and 4). So every run comes to
its end: performing every pending action reaches a state with none left, in which the run is finished because the host has
stopped, and which every further step keeps (R466). The pending list is the model's: log entry 1. -/
def Obligations.EveryStepAnswersANextState : Prop :=
  (∀ s : State, ∃ t, step s = .next t) ∧
  (∀ s : State, ∃ t, Host.Core.run core s.pending.length s = .next t ∧ t.pending = [] ∧ Finished t ∧ step t = .next t)

/-- R101: the mapped offsets are exactly the listed ones, each named by one register, which is the one R30 to R58
place there, and the platform address HSB_BASE + off reaches offset off. -/
def Obligations.MappedOffsetsAreTheListedOnes : Prop :=
  (∀ off : Offset, (hostRegAt off).isSome = true ↔
    off.toNat % 4 = 0 ∧
      (off.toNat ≤ 0x01C ∨ (0x020 ≤ off.toNat ∧ off.toNat ≤ 0x03C) ∨ (0x040 ≤ off.toNat ∧ off.toNat ≤ 0x0B4) ∨
        (0x100 ≤ off.toNat ∧ off.toNat ≤ 0x148) ∨ (0x180 ≤ off.toNat ∧ off.toNat ≤ 0x19C) ∨
        (0x1C0 ≤ off.toNat ∧ off.toNat ≤ 0x1CC) ∨ (0x200 ≤ off.toNat ∧ off.toNat ≤ 0x204) ∨
        (0x240 ≤ off.toNat ∧ off.toNat ≤ 0x250))) ∧
  (∀ h : HostReg, hostRegAt (BitVec.ofNat 12 h.offset) = some h) ∧
  (∀ i : Reg, (HostReg.x i).offset = 4 * i.val) ∧
  (∀ k : Fin 6, (HostReg.toneTab k).offset = 0x0A0 + 4 * k.val) ∧
  (∀ j : Fin 2, (HostReg.rxWord j).offset = 0x200 + 4 * j.val) ∧
  (∀ j : Fin 5, (HostReg.txWord j).offset = 0x240 + 4 * j.val) ∧
  (∀ p ∈ [(HostReg.cmd, 0x020), (.status, 0x024), (.errCmd, 0x028), (.cfgValid, 0x02C),
      (.irqEn, 0x030), (.irqPend, 0x034), (.rstFlags, 0x038), (.ident, 0x03C), (.ctrl, 0x040), (.must .rate, 0x044),
      (.must .filtCoef, 0x048), (.must .filtCoefBrake, 0x04C), (.must .tempCoef, 0x050),
      (.must .speedGainNormal, 0x054), (.must .speedGainTurbo, 0x058), (.must .steerGain, 0x05C), (.cmdMin, 0x060),
      (.cmdMax, 0x064), (.must .tempWarn, 0x068), (.must .tempOff, 0x06C), (.must .batSlow, 0x070),
      (.must .batFast, 0x074), (.must .batDead, 0x078), (.standstill, 0x07C), (.revCue, 0x080),
      (.must .inactTicks, 0x084), (.serTimeout, 0x088), (.must .startSent, 0x08C), (.must .consumedSent, 0x090),
      (.must .tcalMul, 0x094), (.must .tcalAdd, 0x098), (.poSteps, 0x09C)],
    p.1.offset = p.2) ∧
  (∀ p ∈ [(HostReg.rlSteer, 0x100), (.rlSpeed, 0x104), (.lpfSteer, 0x108), (.lpfSpeed, 0x10C), (.tempFilt, 0x110),
      (.tempDegc, 0x114), (.steerCmd, 0x118), (.speedCmd, 0x11C), (.mixR, 0x120), (.mixL, 0x124), (.cmd1, 0x128),
      (.cmd2, 0x12C), (.serCnt, 0x130), (.link, 0x134), (.inactCnt, 0x138), (.fbDiv, 0x13C), (.tickCnt, 0x140),
      (.sup, 0x144), (.speedAvg, 0x148), (.inSteer, 0x180), (.inSpeed, 0x184), (.inFlags, 0x188), (.inMeasR, 0x18C),
      (.inMeasL, 0x190), (.inErr, 0x194), (.inTempRaw, 0x198), (.inBat, 0x19C), (.tgtR, 0x1C0), (.tgtL, 0x1C4),
      (.outFlags, 0x1C8), (.buz, 0x1CC)],
    p.1.offset = p.2) ∧
  (∀ off : Offset, windowOffset (Config.hsbBase + off.toNat) = some off)

/-- R102 and R405: an access of another width than 32 bits, at an offset that is no multiple of 4 or is unmapped, and a
write to a RO register, get a bus error and change no state of the block.
The pending list and the bus answer are the model's: log entries 1 and 7. -/
def Obligations.BusErrorsHaveNoEffect : Prop :=
  ∀ (s : State) (a : AgentAction) (rest : List AgentAction) (width : Nat) (off : Offset) (v : Word),
    s.pending = a :: rest →
    ((a = .hostRead width off ∨ a = .hostWrite width off v) ∧
        (width ≠ 32 ∨ off.toNat % 4 ≠ 0 ∨ hostRegAt off = none)) ∨
      (a = .hostWrite width off v ∧ ∃ h, hostRegAt off = some h ∧ accessOf h = .ro) →
    step s = .next { s with pending := rest, bus := .busError }

/-- R102, R110: a 32-bit read of a mapped register returns its host view and changes no register, byte or port; that view
is the number the stored fields give, field by field and byte by byte (R30 to R58, R104, R105), except that an unwritten
must-write register gives some value of its type; a 32-bit write to a RW or W1C register applies its class's rule, as STR
does.
The pending list and the bus answer are the model's: log entries 1 and 7. The count n of
free values is the model's too: log entry 4. -/
def Obligations.HostAccessesReachTheRegister : Prop :=
  ∀ (s : State) (h : HostReg) (off : Offset) (v : Word) (rest : List AgentAction),
    hostRegAt off = some h →
    (s.pending = .hostRead 32 off :: rest →
      ∃ n, step s = .next { s with pending := rest, bus := .data (view s h), unspecReads := n }) ∧
    (¬Unspecified s h → view s h = BitVec.ofInt 32 (hostValue s h)) ∧
    (Unspecified s h → ∃ w, view s h = throughType (registerType h) w) ∧
    (s.pending = .hostWrite 32 off v :: rest → isWritable h = true →
      step s = .next { store h v { s with pending := rest } with bus := .done })

/-- R103: a DMA write of byte b at address i sets RXBUF byte i to b; every other byte, and everything else, stays.
The pending list is the model's: log entry 1. -/
def Obligations.DmaWriteSetsOneByte : Prop :=
  ∀ (s : State) (i : Fin 8) (b : Byte) (rest : List AgentAction), s.mem.wf → s.pending = .dmaWrite i b :: rest →
    ∃ m, step s = .next { s with pending := rest, mem := m } ∧ readByte m (0x200 + i.val) = b ∧
      ∀ a, a ≠ 0x200 + i.val → readByte m a = readByte s.mem a

/-- The eight writes of a whole frame leave exactly that frame in RXBUF, whatever stood there before (R103, R104, R451).
The pending list is the model's: log entry 1. -/
def Obligations.WholeFrameReachesTheBuffer : Prop :=
  ∀ (s : State) (f : Vector Byte 8), s.mem.wf → s.pending = frameWrites f →
    ∃ m, Host.Core.run core 8 s = .next { s with pending := [], mem := m } ∧
      (∀ i : Fin 8, readByte m (0x200 + i.val) = f[i]) ∧
      (∀ a, (a < 0x200 ∨ 0x208 ≤ a) → readByte m a = readByte s.mem a)

/-! ## Registers (10_state.md) -/

/-- R252: STR writes exactly these registers and raises E_RO for every other mapped one; the same set is what a host
write changes without a bus error (CMD, which executes, apart).
The bus answer is the model's: log entry 7. -/
def Obligations.WritableRegistersAreTheListedOnes : Prop :=
  ∀ (h : HostReg) (off : Offset) (s : State) (r : Reg), hostRegAt off = some h → s.sup.state ≠ .halted →
    (((∃ i, h = .x i) ∨ h = .status ∨ h = .irqEn ∨ h = .irqPend ∨ h = .ctrl ∨ (∃ m, h = .must m) ∨
        h ∈ [.cmdMin, .cmdMax, .standstill, .revCue, .serTimeout, .poSteps] ∨ (∃ k, k ≠ 0 ∧ h = .toneTab k) ∨
        h ∈ [.rlSteer, .rlSpeed, .lpfSteer, .lpfSpeed, .tempFilt] ∨ (∃ j, h = .rxWord j)) →
      exec (.str r off) s = .next (store h (getReg s r) s) ∧
      ∀ v, hostWrite 32 off v s = .next { store h v s with bus := .done }) ∧
    (¬((∃ i, h = .x i) ∨ h = .status ∨ h = .irqEn ∨ h = .irqPend ∨ h = .ctrl ∨ (∃ m, h = .must m) ∨
        h ∈ [.cmdMin, .cmdMax, .standstill, .revCue, .serTimeout, .poSteps] ∨ (∃ k, k ≠ 0 ∧ h = .toneTab k) ∨
        h ∈ [.rlSteer, .rlSpeed, .lpfSteer, .lpfSpeed, .tempFilt] ∨ (∃ j, h = .rxWord j)) →
      exec (.str r off) s = .next (errorRecord 5#4 s) ∧
      (h ≠ .cmd → ∀ v, hostWrite 32 off v s = .next { s with bus := .busError }))

/-- R31, class RW: a written register reads back the low N bits of the word, widened by its type; a must-write register
does so because the write also marks it written. -/
def Obligations.WrittenRegisterReadsBack : Prop :=
  ∀ (s : State) (h : HostReg) (v : Word), s.mem.wf → accessOf h = .rw →
    view (store h v s) h = throughType (registerType h) v

/-- A write to one register leaves the host view of every other register as it was, CFGVALID apart, which gains the bit of
a must-write register; every byte of memory but the written RXBUF word's, and everything outside the block, stays (R31,
R36, R43, R110). -/
def Obligations.WriteLeavesOtherRegisters : Prop :=
  ∀ (s : State) (h g : HostReg) (v : Word), s.mem.wf → isWritable h = true → g ≠ h →
    (g ≠ .cfgValid → view (store h v s) g = view s g) ∧
    ((∀ m, h ≠ .must m) → (store h v s).ctl.cfgValid = s.ctl.cfgValid) ∧
    (∀ m, h = .must m → ∀ k : Fin 17,
      (store h v s).ctl.cfgValid.getLsbD k.val = (s.ctl.cfgValid.getLsbD k.val || decide (k = m.index))) ∧
    (∀ a, (∀ j : Fin 2, h = .rxWord j → a < 0x200 + 4 * j.val ∨ 0x204 + 4 * j.val ≤ a) →
      readByte (store h v s).mem a = readByte s.mem a) ∧
    (store h v s).ports = s.ports ∧ (store h v s).rstCause = s.rstCause ∧ (store h v s).pending = s.pending ∧
    (store h v s).bus = s.bus ∧ (store h v s).unspecReads = s.unspecReads

/-- The W1C registers (R31, R34, R39): ERR, OVF and each pending bit is cleared where a 1 is written and kept where a 0 is;
ERRCODE is cleared with ERR; nothing else of the control registers changes. -/
def Obligations.WriteOneClears : Prop :=
  ∀ (s : State) (v : Word),
    (store .status v s).ctl.status =
      { err := s.ctl.status.err && !v.getLsbD 0, ovf := s.ctl.status.ovf && !v.getLsbD 1,
        errCode := if v.getLsbD 0 = true then 0#4 else s.ctl.status.errCode } ∧
    store .status v s = { s with ctl := { s.ctl with status := (store .status v s).ctl.status } } ∧
    (∀ k : Fin 11, (store .irqPend v s).ctl.irqPend.getLsbD k.val = (s.ctl.irqPend.getLsbD k.val && !v.getLsbD k.val)) ∧
    store .irqPend v s = { s with ctl := { s.ctl with irqPend := (store .irqPend v s).ctl.irqPend } }

/-- R49 with R53: a step that is no TICK, no SWRESET and no hardware reset changes no derived register, no supervisor
state, no snapshot, no output register and no byte of TXBUF.
The pending list is the model's: log entry 1. -/
def Obligations.OnlyTickAndResetsWriteReadOnlyState : Prop :=
  ∀ (s t : State), s.mem.wf → step s = .next t →
    (t.der = s.der ∧ t.sup = s.sup ∧ t.snap = s.snap ∧ t.out = s.out ∧
      ∀ i, i < 20 → readByte t.mem (0x240 + i) = readByte s.mem (0x240 + i)) ∨
    s.pending.head? = some .hardReset ∨ s.pending.head? = some (issue 0x80000000#32) ∨
    s.pending.head? = some (issue 0x84000000#32)

/-! ## Fixed-point primitives (40_fixed_point.md) -/

/-- LPF16 with R201 and R202 in one: Rd becomes the sum of the two floor-shifted products, sign-extended, which is in
[−32768, 32766] so that no saturation shows; nothing else changes. The operands are read before Rd is written (R15). -/
def Obligations.Lpf16FiltersWithoutSaturating : Prop :=
  ∀ (rd ra rb : Reg) (s : State), s.sup.state ≠ .halted →
    ∃ y : Int,
      y = ((getReg s ra).extractLsb' 0 16).toInt * ((getReg s rb).extractLsb' 0 16).toNat / 65536 +
        (65535 - ((getReg s rb).extractLsb' 0 16).toNat) * ((getReg s rd).extractLsb' 0 16).toInt / 65536 ∧
      -32768 ≤ y ∧ y ≤ 32766 ∧
      exec (.lpf16 rd ra rb) s = .next { s with regs := s.regs.set rd (BitVec.ofInt 32 y) }

/-- R203, the laws of lp16 "that a model must reproduce bit for bit", items 1 to 4, over int16 values. -/
def Obligations.Lp16KeepsItsLaws : Prop :=
  (∀ x st : Int, -32768 ≤ x → x ≤ 32767 → -32768 ≤ st → st ≤ 32767 →
    lp16 x 65535 st = x * 65535 / 65536 ∧ lp16 x 65535 st = (if 1 ≤ x then x - 1 else x) ∧
    lp16 x 0 st = 65535 * st / 65536 ∧ lp16 x 0 st = (if 1 ≤ st then st - 1 else st)) ∧
  (∀ x c st st' : Int, 0 ≤ c → c ≤ 65535 → st ≤ st' → lp16 x c st ≤ lp16 x c st') ∧
  (∀ x c st : Int, -32768 ≤ x → x ≤ 32767 → 0 ≤ c → c ≤ 65535 → -32768 ≤ st → st ≤ 32767 →
    ((∀ n, (lp16 x c)^[n] st ≤ (lp16 x c)^[n + 1] st) ∨ (∀ n, (lp16 x c)^[n + 1] st ≤ (lp16 x c)^[n] st)) ∧
    ∃ n, ∀ k, (lp16 x c)^[n + k] st = (lp16 x c)^[n] st) ∧
  (∀ k, (lp16 16000 6553)^[76 + k] 0 = 15980 ∧ (lp16 (-16000) 6553)^[76 + k] 0 = -16000) ∧
  ((lp16 1600 32768)^[1] 0 = 800 ∧ (lp16 1600 32768)^[2] 0 = 1199 ∧ (lp16 1600 32768)^[3] 0 = 1399 ∧
    (lp16 1600 32768)^[4] 0 = 1499 ∧ (lp16 1600 32768)^[5] 0 = 1549)

/-- LPF32 with R206 and the range of R207: Rd becomes the sum of the two floor-shifted products, which stays in
[−2147450880, 2147450879]; nothing else changes. -/
def Obligations.Lpf32FiltersWithoutSaturating : Prop :=
  ∀ (rd ra rb : Reg) (s : State), s.sup.state ≠ .halted →
    ∃ y : Int,
      y = (getReg s ra).toInt * ((getReg s rb).extractLsb' 0 16).toNat / 65536 +
        (65535 - ((getReg s rb).extractLsb' 0 16).toNat) * (getReg s rd).toInt / 65536 ∧
      -2147450880 ≤ y ∧ y ≤ 2147450879 ∧
      exec (.lpf32 rd ra rb) s = .next { s with regs := s.regs.set rd (BitVec.ofInt 32 y) }

/-- RL16 (R211, R212): with a rate of 0 or more, Rd moves toward the input, shifted left by 4, by at most the rate, and is
saturated to int16; a negative rate leaves Rd unchanged and raises E_RATE_NEG. Nothing else changes. -/
def Obligations.Rl16LimitsOrRefusesItsRate : Prop :=
  ∀ (rd ra rb : Reg) (s : State), s.sup.state ≠ .halted →
    (0 ≤ ((getReg s rb).extractLsb' 0 16).toInt →
      exec (.rl16 rd ra rb) s = .next { s with regs := s.regs.set rd (BitVec.ofInt 32
        (max (-32768) (min 32767 (((getReg s rd).extractLsb' 0 16).toInt +
          max (-((getReg s rb).extractLsb' 0 16).toInt) (min ((getReg s rb).extractLsb' 0 16).toInt
            (((getReg s ra).extractLsb' 0 16).toInt * 16 - ((getReg s rd).extractLsb' 0 16).toInt)))))) }) ∧
    (((getReg s rb).extractLsb' 0 16).toInt < 0 → exec (.rl16 rd ra rb) s = .next (errorRecord 8#4 s))

/-- R213, the laws of rl16, items 1 to 5 with their examples, over int16 inputs and states and rates of 0 or more. -/
def Obligations.Rl16KeepsItsLaws : Prop :=
  (∀ x r st : Int, -32768 ≤ x → x ≤ 32767 → 0 ≤ r → r ≤ 32767 → -32768 ≤ st → st ≤ 32767 →
    mag (rl16 x r st - st) ≤ r ∧
    rl16 x 0 st = st ∧
    (mag (x * 16 - st) ≤ r → -32768 ≤ x * 16 → x * 16 ≤ 32767 → rl16 x r st = x * 16) ∧
    (st ≤ x * 16 → st ≤ rl16 x r st ∧ rl16 x r st ≤ x * 16) ∧
    (x * 16 ≤ st → x * 16 ≤ rl16 x r st ∧ rl16 x r st ≤ st)) ∧
  rl16 10 480 0 = 160 ∧ rl16 2047 100 32760 = 32752 ∧ rl16 32767 480 32700 = 32767 ∧
  rl16 (-32768) 480 (-32700) = -32768 ∧ rl16 (-1000) 480 0 = -480

/-- MIXR and MIXL (R220 to R222): the difference and the sum of the two products shifted right by 14, saturated to int16,
shifted right by 4, clamped to [CMD_MIN, CMD_MAX]; an empty range raises E_BADCFG. Nothing else changes. -/
def Obligations.MixersMixOrRefuseTheRange : Prop :=
  ∀ (rd ra rb rc : Reg) (s : State) (ps pt : Int), s.sup.state ≠ .halted →
    ps = ((getReg s ra).extractLsb' 0 16).toInt * ((getReg s rc).extractLsb' 0 16).toInt / 16384 →
    pt = ((getReg s rb).extractLsb' 0 16).toInt * ((getReg s rc).extractLsb' 16 16).toInt / 16384 →
    (s.cfg.cmdMin.toInt ≤ s.cfg.cmdMax.toInt →
      exec (.mixr rd ra rb rc) s = .next { s with regs := s.regs.set rd (BitVec.ofInt 32
        (max s.cfg.cmdMin.toInt (min s.cfg.cmdMax.toInt (max (-32768) (min 32767 (ps - pt)) / 16)))) } ∧
      exec (.mixl rd ra rb rc) s = .next { s with regs := s.regs.set rd (BitVec.ofInt 32
        (max s.cfg.cmdMin.toInt (min s.cfg.cmdMax.toInt (max (-32768) (min 32767 (ps + pt)) / 16)))) }) ∧
    (s.cfg.cmdMax.toInt < s.cfg.cmdMin.toInt →
      exec (.mixr rd ra rb rc) s = .next (errorRecord 7#4 s) ∧
      exec (.mixl rd ra rb rc) s = .next (errorRecord 7#4 s))

/-- The mixer's outputs stay in the command range, and, where that range meets [−2048, 2047], in the part both have in
common (R223 item 1; log entry 13 says why the second half needs the ranges to meet). -/
def Obligations.MixerOutputStaysInRange : Prop :=
  ∀ sp st gs gt lo hi : Int, lo ≤ hi →
    (lo ≤ mixR sp st gs gt lo hi ∧ mixR sp st gs gt lo hi ≤ hi ∧
      lo ≤ mixL sp st gs gt lo hi ∧ mixL sp st gs gt lo hi ≤ hi) ∧
    (lo ≤ 2047 → -2048 ≤ hi →
      max lo (-2048) ≤ mixR sp st gs gt lo hi ∧ mixR sp st gs gt lo hi ≤ min hi 2047 ∧
      max lo (-2048) ≤ mixL sp st gs gt lo hi ∧ mixL sp st gs gt lo hi ≤ min hi 2047)

/-- SAT16 (R230): Rd becomes Ra saturated to int16 and sign-extended; nothing else changes. -/
def Obligations.Sat16Saturates : Prop :=
  ∀ (rd ra : Reg) (s : State), s.sup.state ≠ .halted →
    exec (.sat16 rd ra) s =
      .next { s with regs := s.regs.set rd (BitVec.ofInt 32 (max (-32768) (min 32767 (getReg s ra).toInt))) }

/-! ## Register transfer (41_register_transfer.md) -/

/-- NOP, LI, LUI and MOV (R240, R242, R244, R246): the destination's new value, and nothing else. -/
def Obligations.ImmediatesAndMovesWriteTheirRegister : Prop :=
  ∀ (rd ra : Reg) (imm : Half) (s : State), s.sup.state ≠ .halted →
    exec .nop s = .next s ∧
    exec (.li rd imm) s = .next { s with regs := s.regs.set rd (BitVec.ofInt 32 imm.toInt) } ∧
    exec (.lui rd imm) s =
      .next { s with regs := s.regs.set rd (BitVec.ofNat 32 (imm.toNat * 65536 + (getReg s rd).toNat % 65536)) } ∧
    exec (.mov rd ra) s = .next { s with regs := s.regs.set rd s.regs[ra] }

/-- LDR (R248): a misaligned offset raises E_ALIGN, an aligned unmapped one E_NOREG, and any other puts the register's
32-bit host view into the destination and changes nothing else: the number the stored fields give, or, for an unwritten
must-write register, some value of its type, which uses up one free value (U1, log entry 4). -/
def Obligations.LdrReadsTheHostView : Prop :=
  ∀ (r : Reg) (off : Offset) (s : State), s.sup.state ≠ .halted →
    (off.toNat % 4 ≠ 0 → exec (.ldr r off) s = .next (errorRecord 3#4 s)) ∧
    (off.toNat % 4 = 0 → hostRegAt off = none → exec (.ldr r off) s = .next (errorRecord 4#4 s)) ∧
    (∀ h, hostRegAt off = some h →
      (¬Unspecified s h →
        exec (.ldr r off) s = .next { s with regs := s.regs.set r (BitVec.ofInt 32 (hostValue s h)) }) ∧
      (Unspecified s h →
        ∃ w, exec (.ldr r off) s = .next { s with
          regs := s.regs.set r (throughType (registerType h) w), unspecReads := s.unspecReads + 1 }))

/-- R33: because the word is stored before it executes, an `LDR Rd, 0x020` returns its own encoding.
The pending list is the model's: log entry 1. -/
def Obligations.LdrOfCmdReturnsItsOwnWord : Prop :=
  ∀ (s : State) (r : Reg) (rest : List AgentAction), s.sup.state ≠ .halted →
    s.pending = issue (encode (.ldr r 0x020#12)) :: rest →
    ∃ t, step s = .next t ∧ getReg t r = encode (.ldr r 0x020#12) ∧ t.ctl.cmd = encode (.ldr r 0x020#12)

/-- STR (R250): E_ALIGN, then E_NOREG, then E_RO for a RO or CMD register, and otherwise the register's class rule applied
to the value of the source register, and nothing else. -/
def Obligations.StrWritesByTheClassRule : Prop :=
  ∀ (r : Reg) (off : Offset) (s : State), s.sup.state ≠ .halted →
    (off.toNat % 4 ≠ 0 → exec (.str r off) s = .next (errorRecord 3#4 s)) ∧
    (off.toNat % 4 = 0 → hostRegAt off = none → exec (.str r off) s = .next (errorRecord 4#4 s)) ∧
    (∀ h, hostRegAt off = some h →
      ((accessOf h = .ro ∨ accessOf h = .cmd) → exec (.str r off) s = .next (errorRecord 5#4 s)) ∧
      ((accessOf h = .rw ∨ accessOf h = .w1c) → exec (.str r off) s = .next (store h (getReg s r) s)))

/-! ## Serial link (44_serial_link.md) -/

/-- XOR16 (R340): the exclusive or of the low halves, zero-extended; nothing else changes. -/
def Obligations.Xor16XorsTheLowHalves : Prop :=
  ∀ (rd ra rb : Reg) (s : State), s.sup.state ≠ .halted →
    exec (.xor16 rd ra rb) s = .next { s with
      regs := s.regs.set rd (BitVec.ofNat 32 (((getReg s ra).toNat % 65536) ^^^ ((getReg s rb).toNat % 65536))) }

/-- FRMCHK (R342, R351): E_CFG_UNSET unless both sentinels are written, then E_BADCFG if they are equal, else the verdict on
the eight bytes of RXBUF: 0 accept, 1 stale, 2 bad sum, 3 resync. Nothing else changes. -/
def Obligations.FrmchkClassifiesTheFrame : Prop :=
  ∀ (rd : Reg) (s : State) (start steer speed sum : Half), s.sup.state ≠ .halted →
    start = rxByte s 1 ++ rxByte s 0 → steer = rxByte s 3 ++ rxByte s 2 → speed = rxByte s 5 ++ rxByte s 4 →
    sum = rxByte s 7 ++ rxByte s 6 →
    ((s.ctl.cfgValid.getLsbD 13 = false ∨ s.ctl.cfgValid.getLsbD 14 = false) →
      exec (.frmchk rd) s = .next (errorRecord 6#4 s)) ∧
    (s.ctl.cfgValid.getLsbD 13 = true → s.ctl.cfgValid.getLsbD 14 = true →
      (s.cfg.startSent = s.cfg.consumedSent → exec (.frmchk rd) s = .next (errorRecord 7#4 s)) ∧
      (s.cfg.startSent ≠ s.cfg.consumedSent →
        exec (.frmchk rd) s = .next { s with
          regs := s.regs.set rd (if start = s.cfg.startSent then (if sum = start ^^^ steer ^^^ speed then 0#32 else 2#32)
                                 else if start = s.cfg.consumedSent then 1#32 else 3#32) }))

/-- R352 in a pipeline TICK with the serial source: an accepted frame gives the clamped command pair, its start marker
becomes CONSUMED_SENT, RXBUF[2..7] stay, the counter and the timeout end, FRAME_OK is raised, and LINK_OK if the link was
lost, but neither LINK_LOST nor RESYNC. -/
def Obligations.AcceptedFrameIsTakenAndConsumed : Prop :=
  ∀ s : State, PipelineTick s → s.mem.wf → s.cfg.ctrl.getLsbD 0 = true → verdict s = .accept →
    ∃ t, exec .tick s = .next t ∧
      t.der.cmd1.toInt = max s.cfg.cmdMin.toInt (min s.cfg.cmdMax.toInt (rxByte s 3 ++ rxByte s 2).toInt) ∧
      t.der.cmd2.toInt = max s.cfg.cmdMin.toInt (min s.cfg.cmdMax.toInt (rxByte s 5 ++ rxByte s 4).toInt) ∧
      rxByte t 1 ++ rxByte t 0 = s.cfg.consumedSent ∧
      (∀ i, 2 ≤ i → i < 8 → rxByte t i = rxByte s i) ∧
      t.der.serCnt = 0#16 ∧ t.der.linkTimeout = false ∧ t.out.rxRestart = false ∧ t.out.ctrlOpen = false ∧
      t.ctl.irqPend.getLsbD 10 = true ∧
      t.ctl.irqPend.getLsbD 2 = (s.ctl.irqPend.getLsbD 2 || s.der.linkTimeout) ∧
      t.ctl.irqPend.getLsbD 1 = s.ctl.irqPend.getLsbD 1 ∧ t.ctl.irqPend.getLsbD 8 = s.ctl.irqPend.getLsbD 8

/-- R353 in a pipeline TICK with the serial source: without an accepted frame the saturating counter counts, the timeout
starts when it reaches SER_TIMEOUT, with one LINK_LOST, RXBUF stays, RX_RESTART pulses exactly on a resync, and the command
pair stays unless the timeout pins it to 0 (R265). Neither FRAME_OK nor LINK_OK is raised. -/
def Obligations.MissingFrameCountsTowardTheTimeout : Prop :=
  ∀ s : State, PipelineTick s → s.mem.wf → s.cfg.ctrl.getLsbD 0 = true → verdict s ≠ .accept →
    ∃ t, exec .tick s = .next t ∧
      t.der.serCnt.toNat = min (s.der.serCnt.toNat + 1) 65535 ∧
      t.der.linkTimeout = (s.der.linkTimeout || decide (s.cfg.serTimeout.toNat ≤ t.der.serCnt.toNat)) ∧
      t.ctl.irqPend.getLsbD 1 = (s.ctl.irqPend.getLsbD 1 || (!s.der.linkTimeout && t.der.linkTimeout)) ∧
      (t.out.rxRestart = true ↔ verdict s = .resync) ∧
      t.ctl.irqPend.getLsbD 8 = (s.ctl.irqPend.getLsbD 8 || decide (verdict s = .resync)) ∧
      t.ctl.irqPend.getLsbD 10 = s.ctl.irqPend.getLsbD 10 ∧ t.ctl.irqPend.getLsbD 2 = s.ctl.irqPend.getLsbD 2 ∧
      (∀ i, i < 8 → rxByte t i = rxByte s i) ∧
      t.der.cmd1 = (if t.der.linkTimeout = true then 0#16 else s.der.cmd1) ∧
      t.der.cmd2 = (if t.der.linkTimeout = true then 0#16 else s.der.cmd2) ∧
      t.out.ctrlOpen = t.der.linkTimeout

/-- With the port source (R265, R266) the command pair is the clamped port pair, or 0 under the external timeout, and the
serial counter, the link flag and RXBUF hold (R350), RX_RESTART is 0, and no event of the serial link is raised. -/
def Obligations.PortSourceTakesTheClampedPair : Prop :=
  ∀ s : State, PipelineTick s → s.mem.wf → s.cfg.ctrl.getLsbD 0 = false →
    ∃ t, exec .tick s = .next t ∧
      t.der.cmd1.toInt = (if s.ports.extTimeout = true then 0
        else max s.cfg.cmdMin.toInt (min s.cfg.cmdMax.toInt s.ports.steer.toInt)) ∧
      t.der.cmd2.toInt = (if s.ports.extTimeout = true then 0
        else max s.cfg.cmdMin.toInt (min s.cfg.cmdMax.toInt s.ports.speed.toInt)) ∧
      t.out.ctrlOpen = s.ports.extTimeout ∧ t.der.serCnt = s.der.serCnt ∧ t.der.linkTimeout = s.der.linkTimeout ∧
      (∀ i, i < 8 → rxByte t i = rxByte s i) ∧ t.out.rxRestart = false ∧
      t.ctl.irqPend.getLsbD 1 = s.ctl.irqPend.getLsbD 1 ∧ t.ctl.irqPend.getLsbD 2 = s.ctl.irqPend.getLsbD 2 ∧
      t.ctl.irqPend.getLsbD 8 = s.ctl.irqPend.getLsbD 8 ∧ t.ctl.irqPend.getLsbD 10 = s.ctl.irqPend.getLsbD 10

/-- A frame is applied at most once (R355 item 1): after the TICK that accepts it the verdict is STALE, and a next pipeline
TICK with the serial source keeps the command pair unless the timeout starts. -/
def Obligations.AcceptedFrameIsAppliedOnce : Prop :=
  ∀ s : State, PipelineTick s → s.mem.wf → s.cfg.ctrl.getLsbD 0 = true → verdict s = .accept →
    ∃ t, exec .tick s = .next t ∧ verdict t = .stale ∧
      (PipelineTick t → ∃ u, exec .tick t = .next u ∧ verdict u = .stale ∧ u.der.serCnt = 1#16 ∧
        (2 ≤ s.cfg.serTimeout.toNat → u.der.cmd1 = t.der.cmd1 ∧ u.der.cmd2 = t.der.cmd2))

/-- R360 and R361: a pipeline TICK that does not enter POWEROFF advances FB_DIV modulo 20 and, when it reaches 0 with
FBEN = 1 and the transport idle, writes the ten fields to TXBUF, pulses TX_START and raises FB_SENT; any other pipeline TICK
leaves TXBUF and FB_SENT alone. -/
def Obligations.FeedbackFrameIsBuiltWhenDue : Prop :=
  ∀ s : State, PipelineTick s → s.mem.wf →
    ∃ t, exec .tick s = .next t ∧
      t.der.fbDiv.toNat = (if t.sup.state = .poweroff then s.der.fbDiv.toNat else (s.der.fbDiv.toNat + 1) % 20) ∧
      (t.sup.state ≠ .poweroff → s.cfg.ctrl.getLsbD 1 = true → t.der.fbDiv = 0#8 → s.ports.txBusy = false →
        t.out.txStart = true ∧ t.ctl.irqPend.getLsbD 9 = true ∧
        (∀ k, k < 10 → txByte t (2 * k + 1) ++ txByte t (2 * k) =
          [s.cfg.startSent, t.der.cmd1, t.der.cmd2, t.out.tgtR, t.out.tgtL, s.ports.measR, s.ports.measL, s.ports.bat,
           t.der.tempDegc,
           s.cfg.startSent ^^^ t.der.cmd1 ^^^ t.der.cmd2 ^^^ t.out.tgtR ^^^ t.out.tgtL ^^^ s.ports.measR ^^^
             s.ports.measL ^^^ s.ports.bat ^^^ t.der.tempDegc].getD k 0#16)) ∧
      ((t.sup.state = .poweroff ∨ s.cfg.ctrl.getLsbD 1 = false ∨ t.der.fbDiv ≠ 0#8 ∨ s.ports.txBusy = true) →
        t.out.txStart = false ∧ t.ctl.irqPend.getLsbD 9 = s.ctl.irqPend.getLsbD 9 ∧
        ∀ i, i < 20 → txByte t i = txByte s i)

/-! ## TICK (42_tick_conditioner_mixer.md) -/

/-- R262, in every state: a TICK that passes its checks completes, samples every input port except rst_cause_in into the
snapshot, counts, and ends the pulses of the TICK before it (R52, R56, R421): what they were makes no difference to the
TICK, and a pulse that the TICK's own state, button or source rules out is 0 after it. -/
def Obligations.AcceptedTickSamplesAndCounts : Prop :=
  ∀ s : State, TickAccepted s →
    ∃ t, exec .tick s = .next t ∧ t.snap = s.ports ∧ t.der.tickCnt.toNat = (s.der.tickCnt.toNat + 1) % 4294967296 ∧
      (t.sup.state ≠ .enabled → t.out.ack = false) ∧
      (s.sup.state = .btnWait ∨ s.sup.state = .poweroff ∨ s.ports.btn = true →
        t.out.ack = false ∧ t.out.rxRestart = false ∧ t.out.txStart = false) ∧
      (s.cfg.ctrl.getLsbD 0 = false → t.out.rxRestart = false) ∧
      (t.sup.state = .poweroff ∨ s.cfg.ctrl.getLsbD 1 = false → t.out.txStart = false) ∧
      (∀ ack rxRestart txStart : Bool,
        exec .tick { s with out := { s.out with ack := ack, rxRestart := rxRestart, txStart := txStart } } = .next t)

/-- The frame of a TICK that passes its checks: operand registers, configuration, CMD, the error record, CFGVALID, IRQ_EN
and the ports stay; every byte but RXBUF[0..1] and TXBUF stays (R49, R53, R60, R106); no pending event is lost, and none is
raised where the state, the button, the source or the ramp rules its rule out (R410). -/
def Obligations.AcceptedTickFrame : Prop :=
  ∀ s : State, TickAccepted s → s.mem.wf →
    ∃ t, exec .tick s = .next t ∧
      t.regs = s.regs ∧ t.cfg = s.cfg ∧ t.ctl.cmd = s.ctl.cmd ∧ t.ctl.status = s.ctl.status ∧
      t.ctl.errCmd = s.ctl.errCmd ∧ t.ctl.cfgValid = s.ctl.cfgValid ∧ t.ctl.irqEn = s.ctl.irqEn ∧
      (∀ k, s.ctl.irqPend.getLsbD k = true → t.ctl.irqPend.getLsbD k = true) ∧
      t.ctl.irqPend.getLsbD 0 = s.ctl.irqPend.getLsbD 0 ∧
      (¬(checksConfig s ∧ s.ports.btn = false ∧ s.cfg.ctrl.getLsbD 0 = true) →
        t.ctl.irqPend.getLsbD 1 = s.ctl.irqPend.getLsbD 1 ∧ t.ctl.irqPend.getLsbD 2 = s.ctl.irqPend.getLsbD 2 ∧
          t.ctl.irqPend.getLsbD 8 = s.ctl.irqPend.getLsbD 8 ∧ t.ctl.irqPend.getLsbD 10 = s.ctl.irqPend.getLsbD 10) ∧
      (¬(checksConfig s ∧ s.ports.btn = false) →
        t.ctl.irqPend.getLsbD 3 = s.ctl.irqPend.getLsbD 3 ∧ t.ctl.irqPend.getLsbD 4 = s.ctl.irqPend.getLsbD 4 ∧
          t.ctl.irqPend.getLsbD 9 = s.ctl.irqPend.getLsbD 9) ∧
      (¬(checksConfig s ∧ s.ports.btn = true) → t.ctl.irqPend.getLsbD 5 = s.ctl.irqPend.getLsbD 5) ∧
      (¬(s.sup.state ≠ .poweroff ∧ t.sup.state = .poweroff) → t.ctl.irqPend.getLsbD 6 = s.ctl.irqPend.getLsbD 6) ∧
      (¬(s.sup.state = .poweroff ∧ s.cfg.poSteps.toNat ≤ s.sup.poStep.toNat) →
        t.ctl.irqPend.getLsbD 7 = s.ctl.irqPend.getLsbD 7) ∧
      t.ports = s.ports ∧ t.rstCause = s.rstCause ∧ t.pending = s.pending ∧ t.bus = s.bus ∧
      t.unspecReads = s.unspecReads ∧
      (s.sup.state = .btnWait ∨ t.ctl.rstFlags = s.ctl.rstFlags) ∧
      (s.sup.state = .poweroff ∨ t.out.powerLatch = s.out.powerLatch) ∧
      (∀ a, a ≠ 0x200 → a ≠ 0x201 → (a < 0x240 ∨ 0x254 ≤ a) → readByte t.mem a = readByte s.mem a)

/-- R270: stage S2 rate-limits each axis by RATE, filters the limited value (the speed axis with the braking coefficient
while brake_in is 1, R271), and shifts the filter's output right by 4. However far the command jumps, the fixed-point state
of an axis changes by at most RATE, and the conditioned commands stay in [−2048, 2047] (R272). -/
def Obligations.PipelineTickConditionsBothAxes : Prop :=
  ∀ s : State, PipelineTick s →
    ∃ t, exec .tick s = .next t ∧
      t.filt.rlSteer.toInt = rl16 t.der.cmd1.toInt s.cfg.rate.toInt s.filt.rlSteer.toInt ∧
      t.filt.lpfSteer.toInt = lp16 t.filt.rlSteer.toInt s.cfg.filtCoef.toNat s.filt.lpfSteer.toInt ∧
      t.filt.rlSpeed.toInt = rl16 t.der.cmd2.toInt s.cfg.rate.toInt s.filt.rlSpeed.toInt ∧
      t.filt.lpfSpeed.toInt = lp16 t.filt.rlSpeed.toInt
        (if s.ports.brake = true then s.cfg.filtCoefBrake.toNat else s.cfg.filtCoef.toNat) s.filt.lpfSpeed.toInt ∧
      t.der.steerCmd.toInt = t.filt.lpfSteer.toInt / 16 ∧ t.der.speedCmd.toInt = t.filt.lpfSpeed.toInt / 16 ∧
      mag (t.filt.rlSteer.toInt - s.filt.rlSteer.toInt) ≤ s.cfg.rate.toInt ∧
      mag (t.filt.rlSpeed.toInt - s.filt.rlSpeed.toInt) ≤ s.cfg.rate.toInt ∧
      -2048 ≤ t.der.steerCmd.toInt ∧ t.der.steerCmd.toInt ≤ 2047 ∧
      -2048 ≤ t.der.speedCmd.toInt ∧ t.der.speedCmd.toInt ≤ 2047

/-- R275 and R277: MIX_R and MIX_L record the mixer's output on the filter states with the profile's speed gain, and the
targets take it exactly when both changes are below 50 in magnitude and no communication timeout is flagged. -/
def Obligations.PipelineTickMixesAndGates : Prop :=
  ∀ s : State, PipelineTick s →
    ∃ t, exec .tick s = .next t ∧
      t.der.mixR.toInt = mixR t.filt.lpfSpeed.toInt t.filt.lpfSteer.toInt
        (if s.cfg.ctrl.extractLsb' 3 2 = 2#2 then s.cfg.speedGainTurbo.toInt else s.cfg.speedGainNormal.toInt)
        s.cfg.steerGain.toInt s.cfg.cmdMin.toInt s.cfg.cmdMax.toInt ∧
      t.der.mixL.toInt = mixL t.filt.lpfSpeed.toInt t.filt.lpfSteer.toInt
        (if s.cfg.ctrl.extractLsb' 3 2 = 2#2 then s.cfg.speedGainTurbo.toInt else s.cfg.speedGainNormal.toInt)
        s.cfg.steerGain.toInt s.cfg.cmdMin.toInt s.cfg.cmdMax.toInt ∧
      (mag (t.der.mixR.toInt - s.der.mixR.toInt) < 50 ∧ mag (t.der.mixL.toInt - s.der.mixL.toInt) < 50 ∧
          timedOut t = false →
        t.out.tgtR = t.der.mixR ∧ t.out.tgtL = t.der.mixL) ∧
      (¬(mag (t.der.mixR.toInt - s.der.mixR.toInt) < 50 ∧ mag (t.der.mixL.toInt - s.der.mixL.toInt) < 50 ∧
          timedOut t = false) →
        t.out.tgtR = s.out.tgtR ∧ t.out.tgtL = s.out.tgtL)

/-! ## Supervisor (43_supervisor.md) -/

/-- R304 and R305: the board temperature is filtered and calibrated, and the measured speed is half the difference or the
sum of the sides, truncated toward zero. -/
def Obligations.PipelineTickMeasures : Prop :=
  ∀ s : State, PipelineTick s →
    ∃ t, exec .tick s = .next t ∧
      t.filt.tempFilt.toInt = lp32 s.ports.tempRaw.toInt s.cfg.tempCoef.toNat s.filt.tempFilt.toInt ∧
      t.der.tempDegc.toInt = max (-32768) (min 32767
        (t.filt.tempFilt.toInt * s.cfg.tcalMul.toInt / 65536 + s.cfg.tcalAdd.toInt)) ∧
      t.der.speedAvg.toInt = Int.tdiv
        (if s.cfg.ctrl.getLsbD 2 = true then s.ports.measL.toInt - s.ports.measR.toInt
         else s.ports.measL.toInt + s.ports.measR.toInt) 2

/-- R307 and R308: one tone by priority (fault, temperature, fast battery, slow battery, reverse, silence), from the tone
table. -/
def Obligations.PipelineTickSelectsOneTone : Prop :=
  ∀ s : State, PipelineTick s →
    ∃ (t : State) (id : Fin 6), exec .tick s = .next t ∧
      id = (if s.ports.errR ≠ 0#8 ∨ s.ports.errL ≠ 0#8 ∨ timedOut t = true then 1
        else if s.cfg.tempWarn.toInt < t.der.tempDegc.toInt then 2
        else if s.ports.bat.toInt < s.cfg.batFast.toInt then 3
        else if s.ports.bat.toInt < s.cfg.batSlow.toInt then 4
        else if t.der.speedAvg.toInt < -s.cfg.revCue.toInt then 5
        else 0) ∧
      t.out.buz.toneId.toNat = id.val ∧
      t.out.buz.freq = (toneEntry s.cfg id).extractLsb' 0 8 ∧ t.out.buz.pattern = (toneEntry s.cfg id).extractLsb' 8 8

/-- R301 to R303, R306 and R314 together: the state after a pipeline TICK, ENABLE, the acknowledgement and the events
ENABLED, MON_DIS and POWEROFF, each from the values the TICK itself left. -/
def Obligations.PipelineTickMovesTheSupervisor : Prop :=
  ∀ s : State, PipelineTick s →
    ∃ t, exec .tick s = .next t ∧
      (t.sup.state = .poweroff ↔ s.cfg.inactTicks.toNat < t.der.inactCnt.toNat) ∧
      (t.sup.state = .enabled ↔
        ¬s.cfg.inactTicks.toNat < t.der.inactCnt.toNat ∧ (s.sup.state = .enabled ∨ withinDeadBand t) ∧
          ¬emergencyHolds t) ∧
      (t.sup.state = .poweroff ∨ t.sup.state = .enabled ∨ t.sup.state = .disabled) ∧
      (t.out.enable = true ↔ t.sup.state = .enabled) ∧
      (t.out.ack = true ↔ s.sup.state = .disabled ∧ t.sup.state = .enabled) ∧
      (t.ctl.irqPend.getLsbD 3 = true ↔ s.ctl.irqPend.getLsbD 3 = true ∨ t.out.ack = true) ∧
      (t.ctl.irqPend.getLsbD 4 = true ↔
        s.ctl.irqPend.getLsbD 4 = true ∨ ((s.sup.state = .enabled ∨ withinDeadBand t) ∧ emergencyHolds t)) ∧
      (t.ctl.irqPend.getLsbD 6 = true ↔ s.ctl.irqPend.getLsbD 6 = true ∨ t.sup.state = .poweroff) ∧
      t.sup.poStep = (if t.sup.state = .poweroff then 0#8 else s.sup.poStep)

/-- R312: the inactivity counter counts, saturating, while both targets after the gate are below 50 in magnitude, and is 0
otherwise. -/
def Obligations.PipelineTickCountsInactivity : Prop :=
  ∀ s : State, PipelineTick s →
    ∃ t, exec .tick s = .next t ∧
      t.der.inactCnt.toNat =
        (if mag t.out.tgtR.toInt < 50 ∧ mag t.out.tgtL.toInt < 50 then min (s.der.inactCnt.toNat + 1) (2 ^ 32 - 1) else 0)

/-- R320: a press seen at the start of a TICK in DISABLED or ENABLED enters BTN_WAIT, silences BUZ, clears ENABLE, raises
BTN, and runs no stage: beyond the commit (R262) nothing else changes. -/
def Obligations.ButtonPressEntersTheWait : Prop :=
  ∀ s : State, TickAccepted s → (s.sup.state = .disabled ∨ s.sup.state = .enabled) → s.ports.btn = true →
    exec .tick s = .next { s with
      snap := s.ports, der := { s.der with tickCnt := s.der.tickCnt + 1#32 },
      sup := { s.sup with state := .btnWait },
      out := { s.out with ack := false, rxRestart := false, txStart := false, enable := false,
                          buz := { freq := 0#8, pattern := 0#8, toneId := 0#3 } },
      ctl := { s.ctl with irqPend := s.ctl.irqPend ||| 0x020#11 } }

/-- R321, R322 and R324: a TICK in BTN_WAIT stays while the button is held; on release it resumes in DISABLED with RSTFLAGS
cleared if RSTFLAGS.SOFT or DEBUG is 1, and else enters POWEROFF with PO_STEP 0 and the event. ENABLE is 0 and, beyond the
commit, nothing else changes. -/
def Obligations.ButtonWaitEndsOnRelease : Prop :=
  ∀ (s w : State), s.sup.state = .btnWait →
    w = { s with
      snap := s.ports, der := { s.der with tickCnt := s.der.tickCnt + 1#32 },
      out := { s.out with ack := false, rxRestart := false, txStart := false, enable := false } } →
    (s.ports.btn = true → exec .tick s = .next w) ∧
    (s.ports.btn = false → (s.ctl.rstFlags.getLsbD 2 = true ∨ s.ctl.rstFlags.getLsbD 3 = true) →
      exec .tick s = .next { w with ctl := { w.ctl with rstFlags := 0#4 }, sup := { w.sup with state := .disabled } }) ∧
    (s.ports.btn = false → s.ctl.rstFlags.getLsbD 2 = false → s.ctl.rstFlags.getLsbD 3 = false →
      exec .tick s = .next { w with ctl := { w.ctl with irqPend := w.ctl.irqPend ||| 0x040#11 },
                                    sup := { state := .poweroff, poStep := 0#8 } })

/-- R325: a TICK in POWEROFF sounds the next step of the ramp while PO_STEP < PO_STEPS, and else silences BUZ, releases the
power latch, enters HALTED and raises HALT. ENABLE is 0 and, beyond the commit, nothing else changes. -/
def Obligations.PowerOffStepRampsThenHalts : Prop :=
  ∀ s : State, s.sup.state = .poweroff →
    (s.sup.poStep.toNat < s.cfg.poSteps.toNat →
      exec .tick s = .next { s with
        snap := s.ports, der := { s.der with tickCnt := s.der.tickCnt + 1#32 },
        sup := { state := .poweroff, poStep := s.sup.poStep + 1#8 },
        out := { s.out with ack := false, rxRestart := false, txStart := false, enable := false,
                            buz := { freq := s.sup.poStep, pattern := 0#8, toneId := 6#3 } } }) ∧
    (s.cfg.poSteps.toNat ≤ s.sup.poStep.toNat →
      exec .tick s = .next { s with
        snap := s.ports, der := { s.der with tickCnt := s.der.tickCnt + 1#32 },
        sup := { state := .halted, poStep := s.sup.poStep },
        out := { s.out with ack := false, rxRestart := false, txStart := false, enable := false, powerLatch := false,
                            buz := { freq := 0#8, pattern := 0#8, toneId := 0#3 } },
        ctl := { s.ctl with irqPend := s.ctl.irqPend ||| 0x080#11 } })

/-- A power-off takes PO_STEPS + 1 TICKs (R325): from POWEROFF with n ramp steps to go, a run of k ≤ n TICK commands is at
ramp step PO_STEP + k, the k-th sounding FREQ = PO_STEP + k − 1, and the run of n + 1 ends in HALTED with the latch
released.
The pending list is the model's: log entry 1. -/
def Obligations.PowerOffEndsInHalted : Prop :=
  ∀ (s : State) (n : Nat), s.sup.state = .poweroff → s.sup.poStep.toNat + n = s.cfg.poSteps.toNat →
    s.pending = List.replicate (n + 1) (issue 0x80000000#32) →
    (∀ k, k ≤ n → ∃ t, Host.Core.run core k s = .next t ∧ t.sup.state = .poweroff ∧
      t.sup.poStep.toNat = s.sup.poStep.toNat + k ∧
      (1 ≤ k → t.out.buz.freq.toNat + 1 = s.sup.poStep.toNat + k ∧ t.out.buz.toneId = 6#3 ∧
        t.out.buz.pattern = 0#8 ∧ t.out.enable = false)) ∧
    ∃ t, Host.Core.run core (n + 1) s = .next t ∧ t.sup.state = .halted ∧ t.out.powerLatch = false ∧
      t.out.enable = false ∧ t.ctl.irqPend.getLsbD 7 = true ∧ t.pending = []

/-- R300: every command's effect on SUP.STATE. A TICK moves only along the table; SWRESET, where it is not refused, leads to
DISABLED; every other command leaves the state. -/
def Obligations.SupervisorMovesOnlyAlongTheTable : Prop :=
  ∀ (i : Instr) (s : State), ∃ t, exec i s = .next t ∧
    (i = .tick → t.sup.state ∈ tickMoves s.sup.state) ∧
    (i = .swreset → t.sup.state =
      (if s.sup.state = .halted ∨ s.sup.state = .poweroff then s.sup.state else .disabled)) ∧
    (i ≠ .tick → i ≠ .swreset → t.sup = s.sup)

/-- Only a hardware reset leaves HALTED (R330, R440): any other step from HALTED stays there.
The pending list is the model's: log entry 1. -/
def Obligations.OnlyHardwareResetLeavesHalted : Prop :=
  ∀ (s t : State), s.sup.state = .halted → step s = .next t →
    t.sup.state = .halted ∨ s.pending.head? = some .hardReset

/-! ## Errors, events, reset (60_exceptions.md, 45_system.md, 70_reset_and_hazards.md) -/

/-- R400 to R402: a command reports the first error of the table in the order of R401 whose cause holds, and then only the
error record changes; a command without such a cause completes and, STR and SWRESET apart, leaves the record alone. -/
def Obligations.ErrorsArePreciseAndPrioritised : Prop :=
  ∀ (i : Instr) (s : State),
    (∀ e, reports e i s → exec i s = .next (errorRecord (errorCode e) s)) ∧
    (errorFree i s → ∃ t, exec i s = .next t ∧
      ((∀ r off, i ≠ .str r off) → i ≠ .swreset → t.ctl.status = s.ctl.status ∧ t.ctl.errCmd = s.ctl.errCmd))

/-- R411: irq is 1 exactly while an enabled event is pending; a write to IRQ_EN or of ones to IRQ_PEND changes it at
once. -/
def Obligations.IrqFollowsPendingAndEnable : Prop :=
  ∀ (s : State) (v : Word),
    (irq s = true ↔ ∃ k : Fin 11, s.ctl.irqPend.getLsbD k.val = true ∧ s.ctl.irqEn.getLsbD k.val = true) ∧
    (irq (store .irqEn v s) = true ↔ ∃ k : Fin 11, s.ctl.irqPend.getLsbD k.val = true ∧ v.getLsbD k.val = true) ∧
    (irq (store .irqPend v s) = true ↔
      ∃ k : Fin 11, s.ctl.irqPend.getLsbD k.val = true ∧ v.getLsbD k.val = false ∧ s.ctl.irqEn.getLsbD k.val = true)

/-- SWRESET (R380): in POWEROFF it raises E_HALTED; elsewhere outside HALTED every register takes its reset value, RSTFLAGS
keeps its bits and gains SOFT, and the must-write registers become unwritten. That the port levels and the model's own
fields pending, bus and unspecReads stay is log entry 15, and the fields are those of log entries 1, 7 and 4. -/
def Obligations.SwresetResetsAndMarksSoft : Prop :=
  ∀ s : State, s.sup.state ≠ .halted →
    (s.sup.state = .poweroff → exec .swreset s = .next (errorRecord 2#4 s)) ∧
    (s.sup.state ≠ .poweroff →
      ∃ t, exec .swreset s = .next t ∧
        (∀ h, h ≠ .rstFlags → (∀ m, h ≠ .must m) → view t h = view State.reset h) ∧
        (∀ m, isWritten t m = false) ∧
        t.ctl.rstFlags = s.ctl.rstFlags ||| 0b0100#4 ∧
        t.ports = s.ports ∧ t.rstCause = s.rstCause ∧ t.pending = s.pending ∧ t.bus = s.bus ∧
        t.unspecReads = s.unspecReads)

/-- R440 and R442: a hardware reset, in every state, gives every register its reset value and RSTFLAGS by rst_cause_in.
That the port levels and the model's own fields bus and unspecReads stay is log entry 15, read from R444, and the fields
pending, bus and unspecReads are those of log entries 1, 7 and 4. -/
def Obligations.HardwareResetResetsEverywhere : Prop :=
  ∀ (s : State) (rest : List AgentAction), s.pending = .hardReset :: rest →
    ∃ t, step s = .next t ∧
      (∀ h, h ≠ .rstFlags → (∀ m, h ≠ .must m) → view t h = view State.reset h) ∧
      (∀ m, isWritten t m = false) ∧
      t.ctl.rstFlags = (if s.rstCause.getLsbD 0 = true then 0b0001#4
        else if s.rstCause = 0#4 then s.ctl.rstFlags ||| 0b0010#4
        else s.ctl.rstFlags ||| (s.rstCause &&& 0b1110#4)) ∧
      t.ports = s.ports ∧ t.rstCause = s.rstCause ∧ t.pending = rest ∧ t.bus = s.bus ∧
      t.unspecReads = s.unspecReads

/-- R441: what a read of each register returns after a reset (RSTFLAGS and the must-write registers, which R441 leaves to
other rules or unspecified, apart), the bytes of both buffers, and the output ports. -/
def Obligations.ResetGivesTheTabledValues : Prop :=
  (∀ h : HostReg, h ≠ .rstFlags → (∀ m, h ≠ .must m) →
    (view State.reset h).toNat =
      (if h = .ident then 0x48534201 else if h = .ctrl then 0x7 else if h = .cmdMin then 0xFFFFFC18
       else if h = .cmdMax then 0x3E8 else if h = .standstill then 20 else if h = .revCue then 20
       else if h = .serTimeout then 25 else if h = .poSteps then 8 else if h = .outFlags then 0x4 else 0)) ∧
  (∀ a, readByte State.reset.mem a = 0#8) ∧
  (∀ m, isWritten State.reset m = false) ∧
  outputPorts State.reset =
    { tgtR := 0#16, tgtL := 0#16, enable := false, ctrlOpen := false, powerLatch := true, ack := false,
      rxRestart := false, txStart := false, freq := 0#8, pattern := 0#8, irq := false }

/-! ## Headlines -/

/-- The invariant holds in the state after reset. -/
def Obligations.ResetMeetsTheInvariant : Prop := Inv State.reset

/-- Every step keeps the invariant: canonical memory within the buffers, ENABLE and the power latch following the
supervisor state, the consistency of the error record, the ranges of FB_DIV and BUZ.TONE_ID, and a configured block in
every state but DISABLED.
The invariant is the model's wording of rules of the spec; the keying of the memory is log entry 8, the step log entry 1. -/
def Obligations.EveryStepKeepsTheInvariant : Prop :=
  ∀ (s t : State), Inv s → step s = .next t → Inv t

/-- "The block never uses the content of a must-write register whose CFGVALID bit is 0" (R43), nor does a read show it
(U1): two states that differ at most in such contents answer every step with the same change, so that they still differ at
most so.
That such a register holds something and that a read gives a free value are the model's: log entries 3 and 4. -/
def Obligations.UnwrittenConfigurationIsNeverUsed : Prop :=
  ∀ (s t : State), SameButUnwritten s t →
    ∃ s' t', step s = .next s' ∧ step t = .next t' ∧ SameButUnwritten s' t'
end

