-- ==== Sys2Proof/Laws/Memory.lean ====
section
/-! SUPPORT. The byte memory: reading after writing, other addresses, the canonical form, and that equal readings are equal
memories. -/

namespace Sys2Proof.Machine

/-! ## The canonical form, piece by piece -/

theorem wf_nil : Memory.wf [] := by decide

theorem wf_cons {c : Host.Cell} {m : Memory} :
    Memory.wf (c :: m) ↔ (∀ d ∈ m, c.1 < d.1) ∧ c.2 ≠ unlistedByte ∧ Memory.wf m := by
  simp only [Memory.wf, List.pairwise_cons, List.forall_mem_cons]
  tauto

theorem reset_mem_wf : State.reset.mem.wf := wf_nil

theorem reset_mem_inBuffers : State.reset.mem.inBuffers = true := rfl

/-- Below every listed address a canonical memory reads as unlisted. -/
theorem readByte_below {m : Memory} {a : Nat} (h : ∀ d ∈ m, a < d.1) : readByte m a = unlistedByte := by
  induction m with
  | nil => rfl
  | cons c m ih =>
    obtain ⟨k, v⟩ := c
    have hk := h (k, v) (by simp)
    simp only [readByte]
    rw [if_neg (by simp at hk; omega)]
    exact ih fun d hd => h d (by simp [hd])

theorem mem_consByte {a : Nat} {b : Byte} {m : Memory} {c : Host.Cell} (h : c ∈ consByte a b m) :
    c = (a, b) ∨ c ∈ m := by
  unfold consByte at h
  split at h
  · exact .inr h
  · simpa using h

/-- Every cell after a write is the written one or was there before. -/
theorem mem_writeByte {m : Memory} {a : Nat} {b : Byte} {c : Host.Cell} (h : c ∈ writeByte m a b) :
    c = (a, b) ∨ c ∈ m := by
  induction m with
  | nil => exact mem_consByte h
  | cons d m ih =>
    obtain ⟨k, v⟩ := d
    simp only [writeByte] at h
    split at h
    · rcases List.mem_cons.1 h with h | h
      · simp [h]
      · rcases ih h with h | h <;> simp [h]
    · split at h
      · rcases mem_consByte h with h | h <;> simp [h]
      · exact mem_consByte h

theorem consByte_wf {a : Nat} {b : Byte} {m : Memory} (hm : m.wf) (ha : ∀ d ∈ m, a < d.1) : (consByte a b m).wf := by
  unfold consByte
  split
  · exact hm
  · exact wf_cons.2 ⟨ha, ‹_›, hm⟩

/-- A write keeps the canonical form. -/
theorem writeByte_wf {m : Memory} (a : Nat) (b : Byte) (hm : m.wf) : (writeByte m a b).wf := by
  induction m with
  | nil => exact consByte_wf wf_nil (by simp)
  | cons c m ih =>
    obtain ⟨k, v⟩ := c
    obtain ⟨hlt, hv, hm'⟩ := wf_cons.1 hm
    simp only [writeByte]
    split
    · refine wf_cons.2 ⟨fun d hd => ?_, hv, ih hm'⟩
      rcases mem_writeByte hd with rfl | hd
      · assumption
      · exact hlt d hd
    · split
      · subst_vars
        exact consByte_wf hm' hlt
      · refine consByte_wf hm ?_
        rintro d hd
        rcases List.mem_cons.1 hd with rfl | hd
        · simp; omega
        · have := hlt d hd
          simp at this
          omega

theorem readByte_consByte {a : Nat} {b : Byte} {m : Memory} (ha : ∀ d ∈ m, a < d.1) (x : Nat) :
    readByte (consByte a b m) x = if x = a then b else readByte m x := by
  unfold consByte
  split
  · split
    · subst_vars
      simpa [unlistedByte] using readByte_below ha
    · rfl
  · simp only [readByte, eq_comm]

/-- A read after a write: the written byte at its address, and what was there anywhere else. -/
theorem readByte_writeByte {m : Memory} (hm : m.wf) (a : Nat) (b : Byte) (x : Nat) :
    readByte (writeByte m a b) x = if x = a then b else readByte m x := by
  induction m with
  | nil => exact readByte_consByte (by simp) x
  | cons c m ih =>
    obtain ⟨k, v⟩ := c
    obtain ⟨hlt, -, hm'⟩ := wf_cons.1 hm
    simp only [writeByte]
    split
    · simp only [readByte, ih hm']
      split <;> split <;> first | rfl | omega
    · split
      · subst_vars
        rw [readByte_consByte hlt]
        simp only [readByte]
        split_ifs <;> first | rfl | omega
      · refine readByte_consByte ?_ x
        rintro d hd
        rcases List.mem_cons.1 hd with rfl | hd
        · simp; omega
        · have := hlt d hd
          simp at this
          omega

@[simp] theorem readByte_writeByte_same {m : Memory} (hm : m.wf) (a : Nat) (b : Byte) :
    readByte (writeByte m a b) a = b := by simp [readByte_writeByte hm]

theorem readByte_writeByte_other {m : Memory} (hm : m.wf) {a x : Nat} (b : Byte) (h : x ≠ a) :
    readByte (writeByte m a b) x = readByte m x := by simp [readByte_writeByte hm, h]

/-- A write inside the buffers keeps every listed byte inside them. -/
theorem writeByte_inBuffers {m : Memory} {a : Nat} (b : Byte) (hm : m.inBuffers = true) (ha : isBufferByte a = true) :
    (writeByte m a b).inBuffers = true := by
  refine List.all_eq_true.2 fun c hc => ?_
  rcases mem_writeByte hc with rfl | hc
  · exact ha
  · exact List.all_eq_true.1 hm c hc

/-- Equal readings are equal data: two canonical memories that read alike everywhere are the same list. -/
theorem mem_ext {m n : Memory} (hm : m.wf) (hn : n.wf) (h : ∀ a, readByte m a = readByte n a) : m = n := by
  induction m generalizing n with
  | nil =>
    cases n with
    | nil => rfl
    | cons d n =>
      obtain ⟨k, v⟩ := d
      have := h k
      simp [readByte] at this
      exact absurd this.symm (wf_cons.1 hn).2.1
  | cons c m ih =>
    obtain ⟨k, v⟩ := c
    obtain ⟨hlt, hv, hm'⟩ := wf_cons.1 hm
    cases n with
    | nil =>
      have := h k
      simp [readByte] at this
      exact absurd this hv
    | cons d n =>
      obtain ⟨l, w⟩ := d
      obtain ⟨hlt', hw, hn'⟩ := wf_cons.1 hn
      simp only at hv hw hlt hlt'
      have hkl : k = l := by
        rcases Nat.lt_trichotomy k l with hkl | hkl | hkl
        · have := h k
          simp only [readByte, if_true, if_neg (Nat.ne_of_gt hkl)] at this
          rw [readByte_below fun d hd => Nat.lt_trans hkl (hlt' d hd)] at this
          exact absurd this hv
        · exact hkl
        · have := h l
          simp only [readByte, if_true, if_neg (Nat.ne_of_gt hkl)] at this
          rw [readByte_below fun d hd => Nat.lt_trans hkl (hlt d hd)] at this
          exact absurd this.symm hw
      subst hkl
      have hvw : v = w := by simpa [readByte] using h k
      subst hvw
      congr 1
      refine ih hm' hn' fun a => ?_
      have := h a
      simp only [readByte] at this
      split at this
      · subst_vars
        rw [readByte_below hlt, readByte_below hlt']
      · exact this

/-! ## Wider accesses -/

theorem writeHalf_wf {m : Memory} (a : Nat) (v : Half) (hm : m.wf) : (writeHalf m a v).wf :=
  writeByte_wf _ _ (writeByte_wf _ _ hm)

theorem writeWord_wf {m : Memory} (a : Nat) (v : Word) (hm : m.wf) : (writeWord m a v).wf :=
  writeHalf_wf _ _ (writeHalf_wf _ _ hm)

theorem writeFields_wf (fs : List Half) {m : Memory} (a : Nat) (hm : m.wf) : (writeFields m a fs).wf := by
  induction fs generalizing m a with
  | nil => exact hm
  | cons f fs ih => exact ih _ (writeHalf_wf _ _ hm)

theorem readByte_writeHalf {m : Memory} (hm : m.wf) (a : Nat) (v : Half) (x : Nat) :
    readByte (writeHalf m a v) x =
      if x = a then v.extractLsb' 0 8 else if x = a + 1 then v.extractLsb' 8 8 else readByte m x := by
  simp only [writeHalf, readByte_writeByte (writeByte_wf _ _ hm), readByte_writeByte hm]
  split <;> split <;> first | rfl | omega

theorem readByte_writeWord {m : Memory} (hm : m.wf) (a : Nat) (v : Word) (x : Nat) :
    readByte (writeWord m a v) x =
      if x = a then v.extractLsb' 0 8 else if x = a + 1 then v.extractLsb' 8 8
      else if x = a + 2 then v.extractLsb' 16 8 else if x = a + 3 then v.extractLsb' 24 8 else readByte m x := by
  have e1 : (v.extractLsb' 0 16).extractLsb' 0 8 = v.extractLsb' 0 8 := by ext i; simp
  have e2 : (v.extractLsb' 0 16).extractLsb' 8 8 = v.extractLsb' 8 8 := by ext i; simp
  have e3 : (v.extractLsb' 16 16).extractLsb' 0 8 = v.extractLsb' 16 8 := by ext i; simp; omega
  have e4 : (v.extractLsb' 16 16).extractLsb' 8 8 = v.extractLsb' 24 8 := by
    ext i
    simp [show 16 + (8 + i) = 24 + i by omega]
    omega
  simp only [writeWord, readByte_writeHalf (writeHalf_wf _ _ hm), readByte_writeHalf hm, e1, e2, e3, e4]
  split_ifs <;> first | rfl | omega

theorem readHalf_writeHalf {m : Memory} (hm : m.wf) (a : Nat) (v : Half) : readHalf (writeHalf m a v) a = v := by
  simp only [readHalf, readByte_writeHalf hm]
  rw [if_neg (by omega), if_pos trivial, if_pos trivial]
  ext i hi
  rw [← BitVec.getLsbD_eq_getElem, ← BitVec.getLsbD_eq_getElem]
  simp only [BitVec.getLsbD_append, BitVec.getLsbD_extractLsb']
  split_ifs with h
  · simp [h]
  · rw [show 8 + (i - 8) = i by omega]; simp; omega

theorem readHalf_writeHalf_other {m : Memory} (hm : m.wf) {a x : Nat} (v : Half) (h : x + 1 < a ∨ a + 1 < x) :
    readHalf (writeHalf m a v) x = readHalf m x := by
  simp only [readHalf, readByte_writeHalf hm]
  split_ifs <;> first | rfl | omega

/-- A word written reads back: the canonical memory holds all four bytes (R104, R107). -/
theorem readWord_writeWord {m : Memory} (hm : m.wf) (a : Nat) (v : Word) : readWord (writeWord m a v) a = v := by
  simp only [readWord, readByte_writeWord hm]
  simp only [show a + 3 ≠ a by omega, show a + 2 ≠ a by omega, show a + 1 ≠ a by omega, show a + 3 ≠ a + 1 by omega,
    show a + 3 ≠ a + 2 by omega, show a + 2 ≠ a + 1 by omega, if_true, if_false]
  ext i hi
  simp only [BitVec.getElem_append, BitVec.getElem_extractLsb']
  split_ifs <;> (rw [← BitVec.getLsbD_eq_getElem]; congr 1; omega)

/-- Bytes outside the fields written are as before. -/
theorem readByte_writeFields_other (fs : List Half) {m : Memory} (hm : m.wf) {a x : Nat}
    (h : x < a ∨ a + 2 * fs.length ≤ x) : readByte (writeFields m a fs) x = readByte m x := by
  induction fs generalizing m a with
  | nil => rfl
  | cons f fs ih =>
    simp only [List.length_cons] at h
    rw [writeFields, ih (writeHalf_wf _ _ hm) (by omega), readByte_writeHalf hm, if_neg (by omega), if_neg (by omega)]

/-- Each field written reads back at its place (R105, R361). -/
theorem readHalf_writeFields (fs : List Half) {m : Memory} (hm : m.wf) (a k : Nat) (h : k < fs.length) :
    readHalf (writeFields m a fs) (a + 2 * k) = fs[k] := by
  induction fs generalizing m a k with
  | nil => exact absurd h (by simp)
  | cons f fs ih =>
    cases k with
    | zero =>
      simp only [readHalf, writeFields, Nat.mul_zero, Nat.add_zero]
      rw [readByte_writeFields_other fs (writeHalf_wf _ _ hm) (.inl (by omega)),
        readByte_writeFields_other fs (writeHalf_wf _ _ hm) (.inl (by omega))]
      exact readHalf_writeHalf hm a f
    | succ k =>
      rw [writeFields, show a + 2 * (k + 1) = a + 2 + 2 * k by omega]
      exact ih (writeHalf_wf _ _ hm) (a + 2) k (by simpa using h)

/-! ## The buffers -/

theorem writeHalf_inBuffers {m : Memory} {a : Nat} (v : Half) (hm : m.inBuffers = true) (h0 : isBufferByte a = true)
    (h1 : isBufferByte (a + 1) = true) : (writeHalf m a v).inBuffers = true :=
  writeByte_inBuffers _ (writeByte_inBuffers _ hm h0) h1

theorem writeWord_inBuffers {m : Memory} {a : Nat} (v : Word) (hm : m.inBuffers = true) (h0 : isBufferByte a = true)
    (h1 : isBufferByte (a + 1) = true) (h2 : isBufferByte (a + 2) = true) (h3 : isBufferByte (a + 3) = true) :
    (writeWord m a v).inBuffers = true :=
  writeHalf_inBuffers _ (writeHalf_inBuffers _ hm h0 h1) h2 h3

theorem writeFields_inBuffers (fs : List Half) {m : Memory} {a : Nat} (hm : m.inBuffers = true)
    (h : ∀ i, i < 2 * fs.length → isBufferByte (a + i) = true) : (writeFields m a fs).inBuffers = true := by
  induction fs generalizing m a with
  | nil => exact hm
  | cons f fs ih =>
    simp only [List.length_cons] at h
    refine ih (writeHalf_inBuffers f hm (h 0 (by omega)) (h 1 (by omega))) fun i hi => ?_
    rw [Nat.add_assoc]
    exact h (2 + i) (by omega)

end Sys2Proof.Machine
end

