-- ==== Sys2Proof/Laws/State.lean ====
section
/-! SUPPORT. What each update of the state leaves unchanged: one simp lemma for every field that an operation or a stage
of TICK does not write. A group of registers an operation does not touch at all has one lemma for the whole group. -/

namespace Sys2Proof.Machine

/-! ### setReg -/

@[simp] theorem setReg_ctl (i : Reg) (v : Word) (s : State) :
    (setReg i v s).ctl = s.ctl := rfl
@[simp] theorem setReg_cfg (i : Reg) (v : Word) (s : State) :
    (setReg i v s).cfg = s.cfg := rfl
@[simp] theorem setReg_filt (i : Reg) (v : Word) (s : State) :
    (setReg i v s).filt = s.filt := rfl
@[simp] theorem setReg_der (i : Reg) (v : Word) (s : State) :
    (setReg i v s).der = s.der := rfl
@[simp] theorem setReg_sup (i : Reg) (v : Word) (s : State) :
    (setReg i v s).sup = s.sup := rfl
@[simp] theorem setReg_snap (i : Reg) (v : Word) (s : State) :
    (setReg i v s).snap = s.snap := rfl
@[simp] theorem setReg_out (i : Reg) (v : Word) (s : State) :
    (setReg i v s).out = s.out := rfl
@[simp] theorem setReg_mem (i : Reg) (v : Word) (s : State) :
    (setReg i v s).mem = s.mem := rfl
@[simp] theorem setReg_ports (i : Reg) (v : Word) (s : State) :
    (setReg i v s).ports = s.ports := rfl
@[simp] theorem setReg_rstCause (i : Reg) (v : Word) (s : State) :
    (setReg i v s).rstCause = s.rstCause := rfl
@[simp] theorem setReg_pending (i : Reg) (v : Word) (s : State) :
    (setReg i v s).pending = s.pending := rfl
@[simp] theorem setReg_bus (i : Reg) (v : Word) (s : State) :
    (setReg i v s).bus = s.bus := rfl
@[simp] theorem setReg_unspecReads (i : Reg) (v : Word) (s : State) :
    (setReg i v s).unspecReads = s.unspecReads := rfl

/-! ### raiseEvent -/

@[simp] theorem raiseEvent_regs (e : IrqEvent) (s : State) :
    (raiseEvent e s).regs = s.regs := rfl
@[simp] theorem raiseEvent_cmd (e : IrqEvent) (s : State) :
    (raiseEvent e s).ctl.cmd = s.ctl.cmd := rfl
@[simp] theorem raiseEvent_status (e : IrqEvent) (s : State) :
    (raiseEvent e s).ctl.status = s.ctl.status := rfl
@[simp] theorem raiseEvent_errCmd (e : IrqEvent) (s : State) :
    (raiseEvent e s).ctl.errCmd = s.ctl.errCmd := rfl
@[simp] theorem raiseEvent_cfgValid (e : IrqEvent) (s : State) :
    (raiseEvent e s).ctl.cfgValid = s.ctl.cfgValid := rfl
@[simp] theorem raiseEvent_irqEn (e : IrqEvent) (s : State) :
    (raiseEvent e s).ctl.irqEn = s.ctl.irqEn := rfl
@[simp] theorem raiseEvent_rstFlags (e : IrqEvent) (s : State) :
    (raiseEvent e s).ctl.rstFlags = s.ctl.rstFlags := rfl
@[simp] theorem raiseEvent_cfg (e : IrqEvent) (s : State) :
    (raiseEvent e s).cfg = s.cfg := rfl
@[simp] theorem raiseEvent_filt (e : IrqEvent) (s : State) :
    (raiseEvent e s).filt = s.filt := rfl
@[simp] theorem raiseEvent_der (e : IrqEvent) (s : State) :
    (raiseEvent e s).der = s.der := rfl
@[simp] theorem raiseEvent_sup (e : IrqEvent) (s : State) :
    (raiseEvent e s).sup = s.sup := rfl
@[simp] theorem raiseEvent_snap (e : IrqEvent) (s : State) :
    (raiseEvent e s).snap = s.snap := rfl
@[simp] theorem raiseEvent_out (e : IrqEvent) (s : State) :
    (raiseEvent e s).out = s.out := rfl
@[simp] theorem raiseEvent_mem (e : IrqEvent) (s : State) :
    (raiseEvent e s).mem = s.mem := rfl
@[simp] theorem raiseEvent_ports (e : IrqEvent) (s : State) :
    (raiseEvent e s).ports = s.ports := rfl
@[simp] theorem raiseEvent_rstCause (e : IrqEvent) (s : State) :
    (raiseEvent e s).rstCause = s.rstCause := rfl
@[simp] theorem raiseEvent_pending (e : IrqEvent) (s : State) :
    (raiseEvent e s).pending = s.pending := rfl
@[simp] theorem raiseEvent_bus (e : IrqEvent) (s : State) :
    (raiseEvent e s).bus = s.bus := rfl
@[simp] theorem raiseEvent_unspecReads (e : IrqEvent) (s : State) :
    (raiseEvent e s).unspecReads = s.unspecReads := rfl

/-! ### raiseEventIf -/

@[simp] theorem raiseEventIf_regs (c : Bool) (e : IrqEvent) (s : State) :
    (raiseEventIf c e s).regs = s.regs := by cases c <;> rfl
@[simp] theorem raiseEventIf_cmd (c : Bool) (e : IrqEvent) (s : State) :
    (raiseEventIf c e s).ctl.cmd = s.ctl.cmd := by cases c <;> rfl
@[simp] theorem raiseEventIf_status (c : Bool) (e : IrqEvent) (s : State) :
    (raiseEventIf c e s).ctl.status = s.ctl.status := by cases c <;> rfl
@[simp] theorem raiseEventIf_errCmd (c : Bool) (e : IrqEvent) (s : State) :
    (raiseEventIf c e s).ctl.errCmd = s.ctl.errCmd := by cases c <;> rfl
@[simp] theorem raiseEventIf_cfgValid (c : Bool) (e : IrqEvent) (s : State) :
    (raiseEventIf c e s).ctl.cfgValid = s.ctl.cfgValid := by cases c <;> rfl
@[simp] theorem raiseEventIf_irqEn (c : Bool) (e : IrqEvent) (s : State) :
    (raiseEventIf c e s).ctl.irqEn = s.ctl.irqEn := by cases c <;> rfl
@[simp] theorem raiseEventIf_rstFlags (c : Bool) (e : IrqEvent) (s : State) :
    (raiseEventIf c e s).ctl.rstFlags = s.ctl.rstFlags := by cases c <;> rfl
@[simp] theorem raiseEventIf_cfg (c : Bool) (e : IrqEvent) (s : State) :
    (raiseEventIf c e s).cfg = s.cfg := by cases c <;> rfl
@[simp] theorem raiseEventIf_filt (c : Bool) (e : IrqEvent) (s : State) :
    (raiseEventIf c e s).filt = s.filt := by cases c <;> rfl
@[simp] theorem raiseEventIf_der (c : Bool) (e : IrqEvent) (s : State) :
    (raiseEventIf c e s).der = s.der := by cases c <;> rfl
@[simp] theorem raiseEventIf_sup (c : Bool) (e : IrqEvent) (s : State) :
    (raiseEventIf c e s).sup = s.sup := by cases c <;> rfl
@[simp] theorem raiseEventIf_snap (c : Bool) (e : IrqEvent) (s : State) :
    (raiseEventIf c e s).snap = s.snap := by cases c <;> rfl
@[simp] theorem raiseEventIf_out (c : Bool) (e : IrqEvent) (s : State) :
    (raiseEventIf c e s).out = s.out := by cases c <;> rfl
@[simp] theorem raiseEventIf_mem (c : Bool) (e : IrqEvent) (s : State) :
    (raiseEventIf c e s).mem = s.mem := by cases c <;> rfl
@[simp] theorem raiseEventIf_ports (c : Bool) (e : IrqEvent) (s : State) :
    (raiseEventIf c e s).ports = s.ports := by cases c <;> rfl
@[simp] theorem raiseEventIf_rstCause (c : Bool) (e : IrqEvent) (s : State) :
    (raiseEventIf c e s).rstCause = s.rstCause := by cases c <;> rfl
@[simp] theorem raiseEventIf_pending (c : Bool) (e : IrqEvent) (s : State) :
    (raiseEventIf c e s).pending = s.pending := by cases c <;> rfl
@[simp] theorem raiseEventIf_bus (c : Bool) (e : IrqEvent) (s : State) :
    (raiseEventIf c e s).bus = s.bus := by cases c <;> rfl
@[simp] theorem raiseEventIf_unspecReads (c : Bool) (e : IrqEvent) (s : State) :
    (raiseEventIf c e s).unspecReads = s.unspecReads := by cases c <;> rfl

/-! ### raiseError -/

@[simp] theorem raiseError_regs (e : ErrorKind) (s : State) :
    (raiseError e s).regs = s.regs := rfl
@[simp] theorem raiseError_cmd (e : ErrorKind) (s : State) :
    (raiseError e s).ctl.cmd = s.ctl.cmd := rfl
@[simp] theorem raiseError_cfgValid (e : ErrorKind) (s : State) :
    (raiseError e s).ctl.cfgValid = s.ctl.cfgValid := rfl
@[simp] theorem raiseError_irqEn (e : ErrorKind) (s : State) :
    (raiseError e s).ctl.irqEn = s.ctl.irqEn := rfl
@[simp] theorem raiseError_rstFlags (e : ErrorKind) (s : State) :
    (raiseError e s).ctl.rstFlags = s.ctl.rstFlags := rfl
@[simp] theorem raiseError_cfg (e : ErrorKind) (s : State) :
    (raiseError e s).cfg = s.cfg := rfl
@[simp] theorem raiseError_filt (e : ErrorKind) (s : State) :
    (raiseError e s).filt = s.filt := rfl
@[simp] theorem raiseError_der (e : ErrorKind) (s : State) :
    (raiseError e s).der = s.der := rfl
@[simp] theorem raiseError_sup (e : ErrorKind) (s : State) :
    (raiseError e s).sup = s.sup := rfl
@[simp] theorem raiseError_snap (e : ErrorKind) (s : State) :
    (raiseError e s).snap = s.snap := rfl
@[simp] theorem raiseError_out (e : ErrorKind) (s : State) :
    (raiseError e s).out = s.out := rfl
@[simp] theorem raiseError_mem (e : ErrorKind) (s : State) :
    (raiseError e s).mem = s.mem := rfl
@[simp] theorem raiseError_ports (e : ErrorKind) (s : State) :
    (raiseError e s).ports = s.ports := rfl
@[simp] theorem raiseError_rstCause (e : ErrorKind) (s : State) :
    (raiseError e s).rstCause = s.rstCause := rfl
@[simp] theorem raiseError_pending (e : ErrorKind) (s : State) :
    (raiseError e s).pending = s.pending := rfl
@[simp] theorem raiseError_bus (e : ErrorKind) (s : State) :
    (raiseError e s).bus = s.bus := rfl
@[simp] theorem raiseError_unspecReads (e : ErrorKind) (s : State) :
    (raiseError e s).unspecReads = s.unspecReads := rfl

/-! ### withCommand -/

@[simp] theorem withCommand_regs (w : Word) (s : State) :
    (withCommand w s).regs = s.regs := rfl
@[simp] theorem withCommand_status (w : Word) (s : State) :
    (withCommand w s).ctl.status = s.ctl.status := rfl
@[simp] theorem withCommand_errCmd (w : Word) (s : State) :
    (withCommand w s).ctl.errCmd = s.ctl.errCmd := rfl
@[simp] theorem withCommand_cfgValid (w : Word) (s : State) :
    (withCommand w s).ctl.cfgValid = s.ctl.cfgValid := rfl
@[simp] theorem withCommand_irqEn (w : Word) (s : State) :
    (withCommand w s).ctl.irqEn = s.ctl.irqEn := rfl
@[simp] theorem withCommand_irqPend (w : Word) (s : State) :
    (withCommand w s).ctl.irqPend = s.ctl.irqPend := rfl
@[simp] theorem withCommand_rstFlags (w : Word) (s : State) :
    (withCommand w s).ctl.rstFlags = s.ctl.rstFlags := rfl
@[simp] theorem withCommand_cfg (w : Word) (s : State) :
    (withCommand w s).cfg = s.cfg := rfl
@[simp] theorem withCommand_filt (w : Word) (s : State) :
    (withCommand w s).filt = s.filt := rfl
@[simp] theorem withCommand_der (w : Word) (s : State) :
    (withCommand w s).der = s.der := rfl
@[simp] theorem withCommand_sup (w : Word) (s : State) :
    (withCommand w s).sup = s.sup := rfl
@[simp] theorem withCommand_snap (w : Word) (s : State) :
    (withCommand w s).snap = s.snap := rfl
@[simp] theorem withCommand_out (w : Word) (s : State) :
    (withCommand w s).out = s.out := rfl
@[simp] theorem withCommand_mem (w : Word) (s : State) :
    (withCommand w s).mem = s.mem := rfl
@[simp] theorem withCommand_ports (w : Word) (s : State) :
    (withCommand w s).ports = s.ports := rfl
@[simp] theorem withCommand_rstCause (w : Word) (s : State) :
    (withCommand w s).rstCause = s.rstCause := rfl
@[simp] theorem withCommand_pending (w : Word) (s : State) :
    (withCommand w s).pending = s.pending := rfl
@[simp] theorem withCommand_unspecReads (w : Word) (s : State) :
    (withCommand w s).unspecReads = s.unspecReads := rfl

/-! ### busError -/

@[simp] theorem busError_regs (s : State) :
    (busError s).regs = s.regs := rfl
@[simp] theorem busError_ctl (s : State) :
    (busError s).ctl = s.ctl := rfl
@[simp] theorem busError_cfg (s : State) :
    (busError s).cfg = s.cfg := rfl
@[simp] theorem busError_filt (s : State) :
    (busError s).filt = s.filt := rfl
@[simp] theorem busError_der (s : State) :
    (busError s).der = s.der := rfl
@[simp] theorem busError_sup (s : State) :
    (busError s).sup = s.sup := rfl
@[simp] theorem busError_snap (s : State) :
    (busError s).snap = s.snap := rfl
@[simp] theorem busError_out (s : State) :
    (busError s).out = s.out := rfl
@[simp] theorem busError_mem (s : State) :
    (busError s).mem = s.mem := rfl
@[simp] theorem busError_ports (s : State) :
    (busError s).ports = s.ports := rfl
@[simp] theorem busError_rstCause (s : State) :
    (busError s).rstCause = s.rstCause := rfl
@[simp] theorem busError_pending (s : State) :
    (busError s).pending = s.pending := rfl
@[simp] theorem busError_unspecReads (s : State) :
    (busError s).unspecReads = s.unspecReads := rfl

/-! ### commitTick -/

@[simp] theorem commitTick_regs (s : State) :
    (commitTick s).regs = s.regs := by simp only [commitTick]
@[simp] theorem commitTick_ctl (s : State) :
    (commitTick s).ctl = s.ctl := by simp only [commitTick]
@[simp] theorem commitTick_cfg (s : State) :
    (commitTick s).cfg = s.cfg := by simp only [commitTick]
@[simp] theorem commitTick_filt (s : State) :
    (commitTick s).filt = s.filt := by simp only [commitTick]
@[simp] theorem commitTick_tempDegc (s : State) :
    (commitTick s).der.tempDegc = s.der.tempDegc := by simp only [commitTick]
@[simp] theorem commitTick_steerCmd (s : State) :
    (commitTick s).der.steerCmd = s.der.steerCmd := by simp only [commitTick]
@[simp] theorem commitTick_speedCmd (s : State) :
    (commitTick s).der.speedCmd = s.der.speedCmd := by simp only [commitTick]
@[simp] theorem commitTick_mixR (s : State) :
    (commitTick s).der.mixR = s.der.mixR := by simp only [commitTick]
@[simp] theorem commitTick_mixL (s : State) :
    (commitTick s).der.mixL = s.der.mixL := by simp only [commitTick]
@[simp] theorem commitTick_cmd1 (s : State) :
    (commitTick s).der.cmd1 = s.der.cmd1 := by simp only [commitTick]
@[simp] theorem commitTick_cmd2 (s : State) :
    (commitTick s).der.cmd2 = s.der.cmd2 := by simp only [commitTick]
@[simp] theorem commitTick_serCnt (s : State) :
    (commitTick s).der.serCnt = s.der.serCnt := by simp only [commitTick]
@[simp] theorem commitTick_linkTimeout (s : State) :
    (commitTick s).der.linkTimeout = s.der.linkTimeout := by simp only [commitTick]
@[simp] theorem commitTick_inactCnt (s : State) :
    (commitTick s).der.inactCnt = s.der.inactCnt := by simp only [commitTick]
@[simp] theorem commitTick_fbDiv (s : State) :
    (commitTick s).der.fbDiv = s.der.fbDiv := by simp only [commitTick]
@[simp] theorem commitTick_speedAvg (s : State) :
    (commitTick s).der.speedAvg = s.der.speedAvg := by simp only [commitTick]
@[simp] theorem commitTick_sup (s : State) :
    (commitTick s).sup = s.sup := by simp only [commitTick]
@[simp] theorem commitTick_tgtR (s : State) :
    (commitTick s).out.tgtR = s.out.tgtR := by simp only [commitTick]
@[simp] theorem commitTick_tgtL (s : State) :
    (commitTick s).out.tgtL = s.out.tgtL := by simp only [commitTick]
@[simp] theorem commitTick_enable (s : State) :
    (commitTick s).out.enable = s.out.enable := by simp only [commitTick]
@[simp] theorem commitTick_ctrlOpen (s : State) :
    (commitTick s).out.ctrlOpen = s.out.ctrlOpen := by simp only [commitTick]
@[simp] theorem commitTick_powerLatch (s : State) :
    (commitTick s).out.powerLatch = s.out.powerLatch := by simp only [commitTick]
@[simp] theorem commitTick_buz (s : State) :
    (commitTick s).out.buz = s.out.buz := by simp only [commitTick]
@[simp] theorem commitTick_mem (s : State) :
    (commitTick s).mem = s.mem := by simp only [commitTick]
@[simp] theorem commitTick_ports (s : State) :
    (commitTick s).ports = s.ports := by simp only [commitTick]
@[simp] theorem commitTick_rstCause (s : State) :
    (commitTick s).rstCause = s.rstCause := by simp only [commitTick]
@[simp] theorem commitTick_pending (s : State) :
    (commitTick s).pending = s.pending := by simp only [commitTick]
@[simp] theorem commitTick_bus (s : State) :
    (commitTick s).bus = s.bus := by simp only [commitTick]
@[simp] theorem commitTick_unspecReads (s : State) :
    (commitTick s).unspecReads = s.unspecReads := by simp only [commitTick]

/-! ### acceptFrame -/

@[simp] theorem acceptFrame_regs (s : State) :
    (acceptFrame s).regs = s.regs := by simp [acceptFrame]
@[simp] theorem acceptFrame_cmd (s : State) :
    (acceptFrame s).ctl.cmd = s.ctl.cmd := by simp [acceptFrame]
@[simp] theorem acceptFrame_status (s : State) :
    (acceptFrame s).ctl.status = s.ctl.status := by simp [acceptFrame]
@[simp] theorem acceptFrame_errCmd (s : State) :
    (acceptFrame s).ctl.errCmd = s.ctl.errCmd := by simp [acceptFrame]
@[simp] theorem acceptFrame_cfgValid (s : State) :
    (acceptFrame s).ctl.cfgValid = s.ctl.cfgValid := by simp [acceptFrame]
@[simp] theorem acceptFrame_irqEn (s : State) :
    (acceptFrame s).ctl.irqEn = s.ctl.irqEn := by simp [acceptFrame]
@[simp] theorem acceptFrame_rstFlags (s : State) :
    (acceptFrame s).ctl.rstFlags = s.ctl.rstFlags := by simp [acceptFrame]
@[simp] theorem acceptFrame_cfg (s : State) :
    (acceptFrame s).cfg = s.cfg := by simp [acceptFrame]
@[simp] theorem acceptFrame_filt (s : State) :
    (acceptFrame s).filt = s.filt := by simp [acceptFrame]
@[simp] theorem acceptFrame_tempDegc (s : State) :
    (acceptFrame s).der.tempDegc = s.der.tempDegc := by simp [acceptFrame]
@[simp] theorem acceptFrame_steerCmd (s : State) :
    (acceptFrame s).der.steerCmd = s.der.steerCmd := by simp [acceptFrame]
@[simp] theorem acceptFrame_speedCmd (s : State) :
    (acceptFrame s).der.speedCmd = s.der.speedCmd := by simp [acceptFrame]
@[simp] theorem acceptFrame_mixR (s : State) :
    (acceptFrame s).der.mixR = s.der.mixR := by simp [acceptFrame]
@[simp] theorem acceptFrame_mixL (s : State) :
    (acceptFrame s).der.mixL = s.der.mixL := by simp [acceptFrame]
@[simp] theorem acceptFrame_inactCnt (s : State) :
    (acceptFrame s).der.inactCnt = s.der.inactCnt := by simp [acceptFrame]
@[simp] theorem acceptFrame_fbDiv (s : State) :
    (acceptFrame s).der.fbDiv = s.der.fbDiv := by simp [acceptFrame]
@[simp] theorem acceptFrame_tickCnt (s : State) :
    (acceptFrame s).der.tickCnt = s.der.tickCnt := by simp [acceptFrame]
@[simp] theorem acceptFrame_speedAvg (s : State) :
    (acceptFrame s).der.speedAvg = s.der.speedAvg := by simp [acceptFrame]
@[simp] theorem acceptFrame_sup (s : State) :
    (acceptFrame s).sup = s.sup := by simp [acceptFrame]
@[simp] theorem acceptFrame_snap (s : State) :
    (acceptFrame s).snap = s.snap := by simp [acceptFrame]
@[simp] theorem acceptFrame_out (s : State) :
    (acceptFrame s).out = s.out := by simp [acceptFrame]
@[simp] theorem acceptFrame_ports (s : State) :
    (acceptFrame s).ports = s.ports := by simp [acceptFrame]
@[simp] theorem acceptFrame_rstCause (s : State) :
    (acceptFrame s).rstCause = s.rstCause := by simp [acceptFrame]
@[simp] theorem acceptFrame_pending (s : State) :
    (acceptFrame s).pending = s.pending := by simp [acceptFrame]
@[simp] theorem acceptFrame_bus (s : State) :
    (acceptFrame s).bus = s.bus := by simp [acceptFrame]
@[simp] theorem acceptFrame_unspecReads (s : State) :
    (acceptFrame s).unspecReads = s.unspecReads := by simp [acceptFrame]

/-! ### requestResync -/

@[simp] theorem requestResync_regs (s : State) :
    (requestResync s).regs = s.regs := rfl
@[simp] theorem requestResync_cmd (s : State) :
    (requestResync s).ctl.cmd = s.ctl.cmd := rfl
@[simp] theorem requestResync_status (s : State) :
    (requestResync s).ctl.status = s.ctl.status := rfl
@[simp] theorem requestResync_errCmd (s : State) :
    (requestResync s).ctl.errCmd = s.ctl.errCmd := rfl
@[simp] theorem requestResync_cfgValid (s : State) :
    (requestResync s).ctl.cfgValid = s.ctl.cfgValid := rfl
@[simp] theorem requestResync_irqEn (s : State) :
    (requestResync s).ctl.irqEn = s.ctl.irqEn := rfl
@[simp] theorem requestResync_rstFlags (s : State) :
    (requestResync s).ctl.rstFlags = s.ctl.rstFlags := rfl
@[simp] theorem requestResync_cfg (s : State) :
    (requestResync s).cfg = s.cfg := rfl
@[simp] theorem requestResync_filt (s : State) :
    (requestResync s).filt = s.filt := rfl
@[simp] theorem requestResync_der (s : State) :
    (requestResync s).der = s.der := rfl
@[simp] theorem requestResync_sup (s : State) :
    (requestResync s).sup = s.sup := rfl
@[simp] theorem requestResync_snap (s : State) :
    (requestResync s).snap = s.snap := rfl
@[simp] theorem requestResync_tgtR (s : State) :
    (requestResync s).out.tgtR = s.out.tgtR := rfl
@[simp] theorem requestResync_tgtL (s : State) :
    (requestResync s).out.tgtL = s.out.tgtL := rfl
@[simp] theorem requestResync_enable (s : State) :
    (requestResync s).out.enable = s.out.enable := rfl
@[simp] theorem requestResync_ctrlOpen (s : State) :
    (requestResync s).out.ctrlOpen = s.out.ctrlOpen := rfl
@[simp] theorem requestResync_powerLatch (s : State) :
    (requestResync s).out.powerLatch = s.out.powerLatch := rfl
@[simp] theorem requestResync_ack (s : State) :
    (requestResync s).out.ack = s.out.ack := rfl
@[simp] theorem requestResync_txStart (s : State) :
    (requestResync s).out.txStart = s.out.txStart := rfl
@[simp] theorem requestResync_buz (s : State) :
    (requestResync s).out.buz = s.out.buz := rfl
@[simp] theorem requestResync_mem (s : State) :
    (requestResync s).mem = s.mem := rfl
@[simp] theorem requestResync_ports (s : State) :
    (requestResync s).ports = s.ports := rfl
@[simp] theorem requestResync_rstCause (s : State) :
    (requestResync s).rstCause = s.rstCause := rfl
@[simp] theorem requestResync_pending (s : State) :
    (requestResync s).pending = s.pending := rfl
@[simp] theorem requestResync_bus (s : State) :
    (requestResync s).bus = s.bus := rfl
@[simp] theorem requestResync_unspecReads (s : State) :
    (requestResync s).unspecReads = s.unspecReads := rfl

/-! ### countMissing -/

@[simp] theorem countMissing_regs (s : State) :
    (countMissing s).regs = s.regs := by simp [countMissing]
@[simp] theorem countMissing_cmd (s : State) :
    (countMissing s).ctl.cmd = s.ctl.cmd := by simp [countMissing]
@[simp] theorem countMissing_status (s : State) :
    (countMissing s).ctl.status = s.ctl.status := by simp [countMissing]
@[simp] theorem countMissing_errCmd (s : State) :
    (countMissing s).ctl.errCmd = s.ctl.errCmd := by simp [countMissing]
@[simp] theorem countMissing_cfgValid (s : State) :
    (countMissing s).ctl.cfgValid = s.ctl.cfgValid := by simp [countMissing]
@[simp] theorem countMissing_irqEn (s : State) :
    (countMissing s).ctl.irqEn = s.ctl.irqEn := by simp [countMissing]
@[simp] theorem countMissing_rstFlags (s : State) :
    (countMissing s).ctl.rstFlags = s.ctl.rstFlags := by simp [countMissing]
@[simp] theorem countMissing_cfg (s : State) :
    (countMissing s).cfg = s.cfg := by simp [countMissing]
@[simp] theorem countMissing_filt (s : State) :
    (countMissing s).filt = s.filt := by simp [countMissing]
@[simp] theorem countMissing_tempDegc (s : State) :
    (countMissing s).der.tempDegc = s.der.tempDegc := by simp [countMissing]
@[simp] theorem countMissing_steerCmd (s : State) :
    (countMissing s).der.steerCmd = s.der.steerCmd := by simp [countMissing]
@[simp] theorem countMissing_speedCmd (s : State) :
    (countMissing s).der.speedCmd = s.der.speedCmd := by simp [countMissing]
@[simp] theorem countMissing_mixR (s : State) :
    (countMissing s).der.mixR = s.der.mixR := by simp [countMissing]
@[simp] theorem countMissing_mixL (s : State) :
    (countMissing s).der.mixL = s.der.mixL := by simp [countMissing]
@[simp] theorem countMissing_cmd1 (s : State) :
    (countMissing s).der.cmd1 = s.der.cmd1 := by simp [countMissing]
@[simp] theorem countMissing_cmd2 (s : State) :
    (countMissing s).der.cmd2 = s.der.cmd2 := by simp [countMissing]
@[simp] theorem countMissing_inactCnt (s : State) :
    (countMissing s).der.inactCnt = s.der.inactCnt := by simp [countMissing]
@[simp] theorem countMissing_fbDiv (s : State) :
    (countMissing s).der.fbDiv = s.der.fbDiv := by simp [countMissing]
@[simp] theorem countMissing_tickCnt (s : State) :
    (countMissing s).der.tickCnt = s.der.tickCnt := by simp [countMissing]
@[simp] theorem countMissing_speedAvg (s : State) :
    (countMissing s).der.speedAvg = s.der.speedAvg := by simp [countMissing]
@[simp] theorem countMissing_sup (s : State) :
    (countMissing s).sup = s.sup := by simp [countMissing]
@[simp] theorem countMissing_snap (s : State) :
    (countMissing s).snap = s.snap := by simp [countMissing]
@[simp] theorem countMissing_out (s : State) :
    (countMissing s).out = s.out := by simp [countMissing]
@[simp] theorem countMissing_mem (s : State) :
    (countMissing s).mem = s.mem := by simp [countMissing]
@[simp] theorem countMissing_ports (s : State) :
    (countMissing s).ports = s.ports := by simp [countMissing]
@[simp] theorem countMissing_rstCause (s : State) :
    (countMissing s).rstCause = s.rstCause := by simp [countMissing]
@[simp] theorem countMissing_pending (s : State) :
    (countMissing s).pending = s.pending := by simp [countMissing]
@[simp] theorem countMissing_bus (s : State) :
    (countMissing s).bus = s.bus := by simp [countMissing]
@[simp] theorem countMissing_unspecReads (s : State) :
    (countMissing s).unspecReads = s.unspecReads := by simp [countMissing]

/-! ### serialReceive -/

@[simp] theorem serialReceive_regs (s : State) :
    (serialReceive s).regs = s.regs := by unfold serialReceive; split <;> simp
@[simp] theorem serialReceive_cmd (s : State) :
    (serialReceive s).ctl.cmd = s.ctl.cmd := by unfold serialReceive; split <;> simp
@[simp] theorem serialReceive_status (s : State) :
    (serialReceive s).ctl.status = s.ctl.status := by unfold serialReceive; split <;> simp
@[simp] theorem serialReceive_errCmd (s : State) :
    (serialReceive s).ctl.errCmd = s.ctl.errCmd := by unfold serialReceive; split <;> simp
@[simp] theorem serialReceive_cfgValid (s : State) :
    (serialReceive s).ctl.cfgValid = s.ctl.cfgValid := by unfold serialReceive; split <;> simp
@[simp] theorem serialReceive_irqEn (s : State) :
    (serialReceive s).ctl.irqEn = s.ctl.irqEn := by unfold serialReceive; split <;> simp
@[simp] theorem serialReceive_rstFlags (s : State) :
    (serialReceive s).ctl.rstFlags = s.ctl.rstFlags := by unfold serialReceive; split <;> simp
@[simp] theorem serialReceive_cfg (s : State) :
    (serialReceive s).cfg = s.cfg := by unfold serialReceive; split <;> simp
@[simp] theorem serialReceive_filt (s : State) :
    (serialReceive s).filt = s.filt := by unfold serialReceive; split <;> simp
@[simp] theorem serialReceive_tempDegc (s : State) :
    (serialReceive s).der.tempDegc = s.der.tempDegc := by unfold serialReceive; split <;> simp
@[simp] theorem serialReceive_steerCmd (s : State) :
    (serialReceive s).der.steerCmd = s.der.steerCmd := by unfold serialReceive; split <;> simp
@[simp] theorem serialReceive_speedCmd (s : State) :
    (serialReceive s).der.speedCmd = s.der.speedCmd := by unfold serialReceive; split <;> simp
@[simp] theorem serialReceive_mixR (s : State) :
    (serialReceive s).der.mixR = s.der.mixR := by unfold serialReceive; split <;> simp
@[simp] theorem serialReceive_mixL (s : State) :
    (serialReceive s).der.mixL = s.der.mixL := by unfold serialReceive; split <;> simp
@[simp] theorem serialReceive_inactCnt (s : State) :
    (serialReceive s).der.inactCnt = s.der.inactCnt := by unfold serialReceive; split <;> simp
@[simp] theorem serialReceive_fbDiv (s : State) :
    (serialReceive s).der.fbDiv = s.der.fbDiv := by unfold serialReceive; split <;> simp
@[simp] theorem serialReceive_tickCnt (s : State) :
    (serialReceive s).der.tickCnt = s.der.tickCnt := by unfold serialReceive; split <;> simp
@[simp] theorem serialReceive_speedAvg (s : State) :
    (serialReceive s).der.speedAvg = s.der.speedAvg := by unfold serialReceive; split <;> simp
@[simp] theorem serialReceive_sup (s : State) :
    (serialReceive s).sup = s.sup := by unfold serialReceive; split <;> simp
@[simp] theorem serialReceive_snap (s : State) :
    (serialReceive s).snap = s.snap := by unfold serialReceive; split <;> simp
@[simp] theorem serialReceive_tgtR (s : State) :
    (serialReceive s).out.tgtR = s.out.tgtR := by unfold serialReceive; split <;> simp
@[simp] theorem serialReceive_tgtL (s : State) :
    (serialReceive s).out.tgtL = s.out.tgtL := by unfold serialReceive; split <;> simp
@[simp] theorem serialReceive_enable (s : State) :
    (serialReceive s).out.enable = s.out.enable := by unfold serialReceive; split <;> simp
@[simp] theorem serialReceive_ctrlOpen (s : State) :
    (serialReceive s).out.ctrlOpen = s.out.ctrlOpen := by unfold serialReceive; split <;> simp
@[simp] theorem serialReceive_powerLatch (s : State) :
    (serialReceive s).out.powerLatch = s.out.powerLatch := by unfold serialReceive; split <;> simp
@[simp] theorem serialReceive_ack (s : State) :
    (serialReceive s).out.ack = s.out.ack := by unfold serialReceive; split <;> simp
@[simp] theorem serialReceive_txStart (s : State) :
    (serialReceive s).out.txStart = s.out.txStart := by unfold serialReceive; split <;> simp
@[simp] theorem serialReceive_buz (s : State) :
    (serialReceive s).out.buz = s.out.buz := by unfold serialReceive; split <;> simp
@[simp] theorem serialReceive_ports (s : State) :
    (serialReceive s).ports = s.ports := by unfold serialReceive; split <;> simp
@[simp] theorem serialReceive_rstCause (s : State) :
    (serialReceive s).rstCause = s.rstCause := by unfold serialReceive; split <;> simp
@[simp] theorem serialReceive_pending (s : State) :
    (serialReceive s).pending = s.pending := by unfold serialReceive; split <;> simp
@[simp] theorem serialReceive_bus (s : State) :
    (serialReceive s).bus = s.bus := by unfold serialReceive; split <;> simp
@[simp] theorem serialReceive_unspecReads (s : State) :
    (serialReceive s).unspecReads = s.unspecReads := by unfold serialReceive; split <;> simp

/-! ### takeCommands -/

@[simp] theorem takeCommands_regs (s : State) :
    (takeCommands s).regs = s.regs := by unfold takeCommands; split <;> simp
@[simp] theorem takeCommands_cmd (s : State) :
    (takeCommands s).ctl.cmd = s.ctl.cmd := by unfold takeCommands; split <;> simp
@[simp] theorem takeCommands_status (s : State) :
    (takeCommands s).ctl.status = s.ctl.status := by unfold takeCommands; split <;> simp
@[simp] theorem takeCommands_errCmd (s : State) :
    (takeCommands s).ctl.errCmd = s.ctl.errCmd := by unfold takeCommands; split <;> simp
@[simp] theorem takeCommands_cfgValid (s : State) :
    (takeCommands s).ctl.cfgValid = s.ctl.cfgValid := by unfold takeCommands; split <;> simp
@[simp] theorem takeCommands_irqEn (s : State) :
    (takeCommands s).ctl.irqEn = s.ctl.irqEn := by unfold takeCommands; split <;> simp
@[simp] theorem takeCommands_rstFlags (s : State) :
    (takeCommands s).ctl.rstFlags = s.ctl.rstFlags := by unfold takeCommands; split <;> simp
@[simp] theorem takeCommands_cfg (s : State) :
    (takeCommands s).cfg = s.cfg := by unfold takeCommands; split <;> simp
@[simp] theorem takeCommands_filt (s : State) :
    (takeCommands s).filt = s.filt := by unfold takeCommands; split <;> simp
@[simp] theorem takeCommands_tempDegc (s : State) :
    (takeCommands s).der.tempDegc = s.der.tempDegc := by unfold takeCommands; split <;> simp
@[simp] theorem takeCommands_steerCmd (s : State) :
    (takeCommands s).der.steerCmd = s.der.steerCmd := by unfold takeCommands; split <;> simp
@[simp] theorem takeCommands_speedCmd (s : State) :
    (takeCommands s).der.speedCmd = s.der.speedCmd := by unfold takeCommands; split <;> simp
@[simp] theorem takeCommands_mixR (s : State) :
    (takeCommands s).der.mixR = s.der.mixR := by unfold takeCommands; split <;> simp
@[simp] theorem takeCommands_mixL (s : State) :
    (takeCommands s).der.mixL = s.der.mixL := by unfold takeCommands; split <;> simp
@[simp] theorem takeCommands_inactCnt (s : State) :
    (takeCommands s).der.inactCnt = s.der.inactCnt := by unfold takeCommands; split <;> simp
@[simp] theorem takeCommands_fbDiv (s : State) :
    (takeCommands s).der.fbDiv = s.der.fbDiv := by unfold takeCommands; split <;> simp
@[simp] theorem takeCommands_tickCnt (s : State) :
    (takeCommands s).der.tickCnt = s.der.tickCnt := by unfold takeCommands; split <;> simp
@[simp] theorem takeCommands_speedAvg (s : State) :
    (takeCommands s).der.speedAvg = s.der.speedAvg := by unfold takeCommands; split <;> simp
@[simp] theorem takeCommands_sup (s : State) :
    (takeCommands s).sup = s.sup := by unfold takeCommands; split <;> simp
@[simp] theorem takeCommands_snap (s : State) :
    (takeCommands s).snap = s.snap := by unfold takeCommands; split <;> simp
@[simp] theorem takeCommands_tgtR (s : State) :
    (takeCommands s).out.tgtR = s.out.tgtR := by unfold takeCommands; split <;> simp
@[simp] theorem takeCommands_tgtL (s : State) :
    (takeCommands s).out.tgtL = s.out.tgtL := by unfold takeCommands; split <;> simp
@[simp] theorem takeCommands_enable (s : State) :
    (takeCommands s).out.enable = s.out.enable := by unfold takeCommands; split <;> simp
@[simp] theorem takeCommands_ctrlOpen (s : State) :
    (takeCommands s).out.ctrlOpen = s.out.ctrlOpen := by unfold takeCommands; split <;> simp
@[simp] theorem takeCommands_powerLatch (s : State) :
    (takeCommands s).out.powerLatch = s.out.powerLatch := by unfold takeCommands; split <;> simp
@[simp] theorem takeCommands_ack (s : State) :
    (takeCommands s).out.ack = s.out.ack := by unfold takeCommands; split <;> simp
@[simp] theorem takeCommands_txStart (s : State) :
    (takeCommands s).out.txStart = s.out.txStart := by unfold takeCommands; split <;> simp
@[simp] theorem takeCommands_buz (s : State) :
    (takeCommands s).out.buz = s.out.buz := by unfold takeCommands; split <;> simp
@[simp] theorem takeCommands_ports (s : State) :
    (takeCommands s).ports = s.ports := by unfold takeCommands; split <;> simp
@[simp] theorem takeCommands_rstCause (s : State) :
    (takeCommands s).rstCause = s.rstCause := by unfold takeCommands; split <;> simp
@[simp] theorem takeCommands_pending (s : State) :
    (takeCommands s).pending = s.pending := by unfold takeCommands; split <;> simp
@[simp] theorem takeCommands_bus (s : State) :
    (takeCommands s).bus = s.bus := by unfold takeCommands; split <;> simp
@[simp] theorem takeCommands_unspecReads (s : State) :
    (takeCommands s).unspecReads = s.unspecReads := by unfold takeCommands; split <;> simp

/-! ### applyTimeout -/

@[simp] theorem applyTimeout_regs (c : Bool) (s : State) :
    (applyTimeout c s).regs = s.regs := rfl
@[simp] theorem applyTimeout_ctl (c : Bool) (s : State) :
    (applyTimeout c s).ctl = s.ctl := rfl
@[simp] theorem applyTimeout_cfg (c : Bool) (s : State) :
    (applyTimeout c s).cfg = s.cfg := rfl
@[simp] theorem applyTimeout_filt (c : Bool) (s : State) :
    (applyTimeout c s).filt = s.filt := rfl
@[simp] theorem applyTimeout_tempDegc (c : Bool) (s : State) :
    (applyTimeout c s).der.tempDegc = s.der.tempDegc := rfl
@[simp] theorem applyTimeout_steerCmd (c : Bool) (s : State) :
    (applyTimeout c s).der.steerCmd = s.der.steerCmd := rfl
@[simp] theorem applyTimeout_speedCmd (c : Bool) (s : State) :
    (applyTimeout c s).der.speedCmd = s.der.speedCmd := rfl
@[simp] theorem applyTimeout_mixR (c : Bool) (s : State) :
    (applyTimeout c s).der.mixR = s.der.mixR := rfl
@[simp] theorem applyTimeout_mixL (c : Bool) (s : State) :
    (applyTimeout c s).der.mixL = s.der.mixL := rfl
@[simp] theorem applyTimeout_serCnt (c : Bool) (s : State) :
    (applyTimeout c s).der.serCnt = s.der.serCnt := rfl
@[simp] theorem applyTimeout_linkTimeout (c : Bool) (s : State) :
    (applyTimeout c s).der.linkTimeout = s.der.linkTimeout := rfl
@[simp] theorem applyTimeout_inactCnt (c : Bool) (s : State) :
    (applyTimeout c s).der.inactCnt = s.der.inactCnt := rfl
@[simp] theorem applyTimeout_fbDiv (c : Bool) (s : State) :
    (applyTimeout c s).der.fbDiv = s.der.fbDiv := rfl
@[simp] theorem applyTimeout_tickCnt (c : Bool) (s : State) :
    (applyTimeout c s).der.tickCnt = s.der.tickCnt := rfl
@[simp] theorem applyTimeout_speedAvg (c : Bool) (s : State) :
    (applyTimeout c s).der.speedAvg = s.der.speedAvg := rfl
@[simp] theorem applyTimeout_sup (c : Bool) (s : State) :
    (applyTimeout c s).sup = s.sup := rfl
@[simp] theorem applyTimeout_snap (c : Bool) (s : State) :
    (applyTimeout c s).snap = s.snap := rfl
@[simp] theorem applyTimeout_tgtR (c : Bool) (s : State) :
    (applyTimeout c s).out.tgtR = s.out.tgtR := rfl
@[simp] theorem applyTimeout_tgtL (c : Bool) (s : State) :
    (applyTimeout c s).out.tgtL = s.out.tgtL := rfl
@[simp] theorem applyTimeout_enable (c : Bool) (s : State) :
    (applyTimeout c s).out.enable = s.out.enable := rfl
@[simp] theorem applyTimeout_powerLatch (c : Bool) (s : State) :
    (applyTimeout c s).out.powerLatch = s.out.powerLatch := rfl
@[simp] theorem applyTimeout_ack (c : Bool) (s : State) :
    (applyTimeout c s).out.ack = s.out.ack := rfl
@[simp] theorem applyTimeout_rxRestart (c : Bool) (s : State) :
    (applyTimeout c s).out.rxRestart = s.out.rxRestart := rfl
@[simp] theorem applyTimeout_txStart (c : Bool) (s : State) :
    (applyTimeout c s).out.txStart = s.out.txStart := rfl
@[simp] theorem applyTimeout_buz (c : Bool) (s : State) :
    (applyTimeout c s).out.buz = s.out.buz := rfl
@[simp] theorem applyTimeout_mem (c : Bool) (s : State) :
    (applyTimeout c s).mem = s.mem := rfl
@[simp] theorem applyTimeout_ports (c : Bool) (s : State) :
    (applyTimeout c s).ports = s.ports := rfl
@[simp] theorem applyTimeout_rstCause (c : Bool) (s : State) :
    (applyTimeout c s).rstCause = s.rstCause := rfl
@[simp] theorem applyTimeout_pending (c : Bool) (s : State) :
    (applyTimeout c s).pending = s.pending := rfl
@[simp] theorem applyTimeout_bus (c : Bool) (s : State) :
    (applyTimeout c s).bus = s.bus := rfl
@[simp] theorem applyTimeout_unspecReads (c : Bool) (s : State) :
    (applyTimeout c s).unspecReads = s.unspecReads := rfl

/-! ### commandSource -/

@[simp] theorem commandSource_regs (s : State) :
    (commandSource s).regs = s.regs := by simp [commandSource]
@[simp] theorem commandSource_cmd (s : State) :
    (commandSource s).ctl.cmd = s.ctl.cmd := by simp [commandSource]
@[simp] theorem commandSource_status (s : State) :
    (commandSource s).ctl.status = s.ctl.status := by simp [commandSource]
@[simp] theorem commandSource_errCmd (s : State) :
    (commandSource s).ctl.errCmd = s.ctl.errCmd := by simp [commandSource]
@[simp] theorem commandSource_cfgValid (s : State) :
    (commandSource s).ctl.cfgValid = s.ctl.cfgValid := by simp [commandSource]
@[simp] theorem commandSource_irqEn (s : State) :
    (commandSource s).ctl.irqEn = s.ctl.irqEn := by simp [commandSource]
@[simp] theorem commandSource_rstFlags (s : State) :
    (commandSource s).ctl.rstFlags = s.ctl.rstFlags := by simp [commandSource]
@[simp] theorem commandSource_cfg (s : State) :
    (commandSource s).cfg = s.cfg := by simp [commandSource]
@[simp] theorem commandSource_filt (s : State) :
    (commandSource s).filt = s.filt := by simp [commandSource]
@[simp] theorem commandSource_tempDegc (s : State) :
    (commandSource s).der.tempDegc = s.der.tempDegc := by simp [commandSource]
@[simp] theorem commandSource_steerCmd (s : State) :
    (commandSource s).der.steerCmd = s.der.steerCmd := by simp [commandSource]
@[simp] theorem commandSource_speedCmd (s : State) :
    (commandSource s).der.speedCmd = s.der.speedCmd := by simp [commandSource]
@[simp] theorem commandSource_mixR (s : State) :
    (commandSource s).der.mixR = s.der.mixR := by simp [commandSource]
@[simp] theorem commandSource_mixL (s : State) :
    (commandSource s).der.mixL = s.der.mixL := by simp [commandSource]
@[simp] theorem commandSource_inactCnt (s : State) :
    (commandSource s).der.inactCnt = s.der.inactCnt := by simp [commandSource]
@[simp] theorem commandSource_fbDiv (s : State) :
    (commandSource s).der.fbDiv = s.der.fbDiv := by simp [commandSource]
@[simp] theorem commandSource_tickCnt (s : State) :
    (commandSource s).der.tickCnt = s.der.tickCnt := by simp [commandSource]
@[simp] theorem commandSource_speedAvg (s : State) :
    (commandSource s).der.speedAvg = s.der.speedAvg := by simp [commandSource]
@[simp] theorem commandSource_sup (s : State) :
    (commandSource s).sup = s.sup := by simp [commandSource]
@[simp] theorem commandSource_snap (s : State) :
    (commandSource s).snap = s.snap := by simp [commandSource]
@[simp] theorem commandSource_tgtR (s : State) :
    (commandSource s).out.tgtR = s.out.tgtR := by simp [commandSource]
@[simp] theorem commandSource_tgtL (s : State) :
    (commandSource s).out.tgtL = s.out.tgtL := by simp [commandSource]
@[simp] theorem commandSource_enable (s : State) :
    (commandSource s).out.enable = s.out.enable := by simp [commandSource]
@[simp] theorem commandSource_powerLatch (s : State) :
    (commandSource s).out.powerLatch = s.out.powerLatch := by simp [commandSource]
@[simp] theorem commandSource_ack (s : State) :
    (commandSource s).out.ack = s.out.ack := by simp [commandSource]
@[simp] theorem commandSource_txStart (s : State) :
    (commandSource s).out.txStart = s.out.txStart := by simp [commandSource]
@[simp] theorem commandSource_buz (s : State) :
    (commandSource s).out.buz = s.out.buz := by simp [commandSource]
@[simp] theorem commandSource_ports (s : State) :
    (commandSource s).ports = s.ports := by simp [commandSource]
@[simp] theorem commandSource_rstCause (s : State) :
    (commandSource s).rstCause = s.rstCause := by simp [commandSource]
@[simp] theorem commandSource_pending (s : State) :
    (commandSource s).pending = s.pending := by simp [commandSource]
@[simp] theorem commandSource_bus (s : State) :
    (commandSource s).bus = s.bus := by simp [commandSource]
@[simp] theorem commandSource_unspecReads (s : State) :
    (commandSource s).unspecReads = s.unspecReads := by simp [commandSource]

/-! ### condition -/

@[simp] theorem condition_regs (s : State) :
    (condition s).regs = s.regs := by simp only [condition]
@[simp] theorem condition_ctl (s : State) :
    (condition s).ctl = s.ctl := by simp only [condition]
@[simp] theorem condition_cfg (s : State) :
    (condition s).cfg = s.cfg := by simp only [condition]
@[simp] theorem condition_tempFilt (s : State) :
    (condition s).filt.tempFilt = s.filt.tempFilt := by simp only [condition]
@[simp] theorem condition_tempDegc (s : State) :
    (condition s).der.tempDegc = s.der.tempDegc := by simp only [condition]
@[simp] theorem condition_mixR (s : State) :
    (condition s).der.mixR = s.der.mixR := by simp only [condition]
@[simp] theorem condition_mixL (s : State) :
    (condition s).der.mixL = s.der.mixL := by simp only [condition]
@[simp] theorem condition_cmd1 (s : State) :
    (condition s).der.cmd1 = s.der.cmd1 := by simp only [condition]
@[simp] theorem condition_cmd2 (s : State) :
    (condition s).der.cmd2 = s.der.cmd2 := by simp only [condition]
@[simp] theorem condition_serCnt (s : State) :
    (condition s).der.serCnt = s.der.serCnt := by simp only [condition]
@[simp] theorem condition_linkTimeout (s : State) :
    (condition s).der.linkTimeout = s.der.linkTimeout := by simp only [condition]
@[simp] theorem condition_inactCnt (s : State) :
    (condition s).der.inactCnt = s.der.inactCnt := by simp only [condition]
@[simp] theorem condition_fbDiv (s : State) :
    (condition s).der.fbDiv = s.der.fbDiv := by simp only [condition]
@[simp] theorem condition_tickCnt (s : State) :
    (condition s).der.tickCnt = s.der.tickCnt := by simp only [condition]
@[simp] theorem condition_speedAvg (s : State) :
    (condition s).der.speedAvg = s.der.speedAvg := by simp only [condition]
@[simp] theorem condition_sup (s : State) :
    (condition s).sup = s.sup := by simp only [condition]
@[simp] theorem condition_snap (s : State) :
    (condition s).snap = s.snap := by simp only [condition]
@[simp] theorem condition_out (s : State) :
    (condition s).out = s.out := by simp only [condition]
@[simp] theorem condition_mem (s : State) :
    (condition s).mem = s.mem := by simp only [condition]
@[simp] theorem condition_ports (s : State) :
    (condition s).ports = s.ports := by simp only [condition]
@[simp] theorem condition_rstCause (s : State) :
    (condition s).rstCause = s.rstCause := by simp only [condition]
@[simp] theorem condition_pending (s : State) :
    (condition s).pending = s.pending := by simp only [condition]
@[simp] theorem condition_bus (s : State) :
    (condition s).bus = s.bus := by simp only [condition]
@[simp] theorem condition_unspecReads (s : State) :
    (condition s).unspecReads = s.unspecReads := by simp only [condition]

/-! ### stagesSourceCondition -/

@[simp] theorem stagesSourceCondition_regs (s : State) :
    (stagesSourceCondition s).regs = s.regs := by simp [stagesSourceCondition]
@[simp] theorem stagesSourceCondition_cmd (s : State) :
    (stagesSourceCondition s).ctl.cmd = s.ctl.cmd := by simp [stagesSourceCondition]
@[simp] theorem stagesSourceCondition_status (s : State) :
    (stagesSourceCondition s).ctl.status = s.ctl.status := by simp [stagesSourceCondition]
@[simp] theorem stagesSourceCondition_errCmd (s : State) :
    (stagesSourceCondition s).ctl.errCmd = s.ctl.errCmd := by simp [stagesSourceCondition]
@[simp] theorem stagesSourceCondition_cfgValid (s : State) :
    (stagesSourceCondition s).ctl.cfgValid = s.ctl.cfgValid := by simp [stagesSourceCondition]
@[simp] theorem stagesSourceCondition_irqEn (s : State) :
    (stagesSourceCondition s).ctl.irqEn = s.ctl.irqEn := by simp [stagesSourceCondition]
@[simp] theorem stagesSourceCondition_rstFlags (s : State) :
    (stagesSourceCondition s).ctl.rstFlags = s.ctl.rstFlags := by simp [stagesSourceCondition]
@[simp] theorem stagesSourceCondition_cfg (s : State) :
    (stagesSourceCondition s).cfg = s.cfg := by simp [stagesSourceCondition]
@[simp] theorem stagesSourceCondition_tempFilt (s : State) :
    (stagesSourceCondition s).filt.tempFilt = s.filt.tempFilt := by simp [stagesSourceCondition]
@[simp] theorem stagesSourceCondition_tempDegc (s : State) :
    (stagesSourceCondition s).der.tempDegc = s.der.tempDegc := by simp [stagesSourceCondition]
@[simp] theorem stagesSourceCondition_mixR (s : State) :
    (stagesSourceCondition s).der.mixR = s.der.mixR := by simp [stagesSourceCondition]
@[simp] theorem stagesSourceCondition_mixL (s : State) :
    (stagesSourceCondition s).der.mixL = s.der.mixL := by simp [stagesSourceCondition]
@[simp] theorem stagesSourceCondition_inactCnt (s : State) :
    (stagesSourceCondition s).der.inactCnt = s.der.inactCnt := by simp [stagesSourceCondition]
@[simp] theorem stagesSourceCondition_fbDiv (s : State) :
    (stagesSourceCondition s).der.fbDiv = s.der.fbDiv := by simp [stagesSourceCondition]
@[simp] theorem stagesSourceCondition_tickCnt (s : State) :
    (stagesSourceCondition s).der.tickCnt = s.der.tickCnt := by simp [stagesSourceCondition]
@[simp] theorem stagesSourceCondition_speedAvg (s : State) :
    (stagesSourceCondition s).der.speedAvg = s.der.speedAvg := by simp [stagesSourceCondition]
@[simp] theorem stagesSourceCondition_sup (s : State) :
    (stagesSourceCondition s).sup = s.sup := by simp [stagesSourceCondition]
@[simp] theorem stagesSourceCondition_snap (s : State) :
    (stagesSourceCondition s).snap = s.snap := by simp [stagesSourceCondition]
@[simp] theorem stagesSourceCondition_tgtR (s : State) :
    (stagesSourceCondition s).out.tgtR = s.out.tgtR := by simp [stagesSourceCondition]
@[simp] theorem stagesSourceCondition_tgtL (s : State) :
    (stagesSourceCondition s).out.tgtL = s.out.tgtL := by simp [stagesSourceCondition]
@[simp] theorem stagesSourceCondition_enable (s : State) :
    (stagesSourceCondition s).out.enable = s.out.enable := by simp [stagesSourceCondition]
@[simp] theorem stagesSourceCondition_powerLatch (s : State) :
    (stagesSourceCondition s).out.powerLatch = s.out.powerLatch := by simp [stagesSourceCondition]
@[simp] theorem stagesSourceCondition_ack (s : State) :
    (stagesSourceCondition s).out.ack = s.out.ack := by simp [stagesSourceCondition]
@[simp] theorem stagesSourceCondition_txStart (s : State) :
    (stagesSourceCondition s).out.txStart = s.out.txStart := by simp [stagesSourceCondition]
@[simp] theorem stagesSourceCondition_buz (s : State) :
    (stagesSourceCondition s).out.buz = s.out.buz := by simp [stagesSourceCondition]
@[simp] theorem stagesSourceCondition_ports (s : State) :
    (stagesSourceCondition s).ports = s.ports := by simp [stagesSourceCondition]
@[simp] theorem stagesSourceCondition_rstCause (s : State) :
    (stagesSourceCondition s).rstCause = s.rstCause := by simp [stagesSourceCondition]
@[simp] theorem stagesSourceCondition_pending (s : State) :
    (stagesSourceCondition s).pending = s.pending := by simp [stagesSourceCondition]
@[simp] theorem stagesSourceCondition_bus (s : State) :
    (stagesSourceCondition s).bus = s.bus := by simp [stagesSourceCondition]
@[simp] theorem stagesSourceCondition_unspecReads (s : State) :
    (stagesSourceCondition s).unspecReads = s.unspecReads := by simp [stagesSourceCondition]

/-! ### enableTransition -/

@[simp] theorem enableTransition_regs (s : State) :
    (enableTransition s).regs = s.regs := by unfold enableTransition; split <;> rfl
@[simp] theorem enableTransition_ctl (s : State) :
    (enableTransition s).ctl = s.ctl := by unfold enableTransition; split <;> rfl
@[simp] theorem enableTransition_cfg (s : State) :
    (enableTransition s).cfg = s.cfg := by unfold enableTransition; split <;> rfl
@[simp] theorem enableTransition_filt (s : State) :
    (enableTransition s).filt = s.filt := by unfold enableTransition; split <;> rfl
@[simp] theorem enableTransition_der (s : State) :
    (enableTransition s).der = s.der := by unfold enableTransition; split <;> rfl
@[simp] theorem enableTransition_poStep (s : State) :
    (enableTransition s).sup.poStep = s.sup.poStep := by unfold enableTransition; split <;> rfl
@[simp] theorem enableTransition_snap (s : State) :
    (enableTransition s).snap = s.snap := by unfold enableTransition; split <;> rfl
@[simp] theorem enableTransition_out (s : State) :
    (enableTransition s).out = s.out := by unfold enableTransition; split <;> rfl
@[simp] theorem enableTransition_mem (s : State) :
    (enableTransition s).mem = s.mem := by unfold enableTransition; split <;> rfl
@[simp] theorem enableTransition_ports (s : State) :
    (enableTransition s).ports = s.ports := by unfold enableTransition; split <;> rfl
@[simp] theorem enableTransition_rstCause (s : State) :
    (enableTransition s).rstCause = s.rstCause := by unfold enableTransition; split <;> rfl
@[simp] theorem enableTransition_pending (s : State) :
    (enableTransition s).pending = s.pending := by unfold enableTransition; split <;> rfl
@[simp] theorem enableTransition_bus (s : State) :
    (enableTransition s).bus = s.bus := by unfold enableTransition; split <;> rfl
@[simp] theorem enableTransition_unspecReads (s : State) :
    (enableTransition s).unspecReads = s.unspecReads := by unfold enableTransition; split <;> rfl

/-! ### gate -/

@[simp] theorem gate_regs (mR mL : Int) (c : Bool) (s : State) :
    (gate mR mL c s).regs = s.regs := by simp only [gate]
@[simp] theorem gate_ctl (mR mL : Int) (c : Bool) (s : State) :
    (gate mR mL c s).ctl = s.ctl := by simp only [gate]
@[simp] theorem gate_cfg (mR mL : Int) (c : Bool) (s : State) :
    (gate mR mL c s).cfg = s.cfg := by simp only [gate]
@[simp] theorem gate_filt (mR mL : Int) (c : Bool) (s : State) :
    (gate mR mL c s).filt = s.filt := by simp only [gate]
@[simp] theorem gate_tempDegc (mR mL : Int) (c : Bool) (s : State) :
    (gate mR mL c s).der.tempDegc = s.der.tempDegc := by simp only [gate]
@[simp] theorem gate_steerCmd (mR mL : Int) (c : Bool) (s : State) :
    (gate mR mL c s).der.steerCmd = s.der.steerCmd := by simp only [gate]
@[simp] theorem gate_speedCmd (mR mL : Int) (c : Bool) (s : State) :
    (gate mR mL c s).der.speedCmd = s.der.speedCmd := by simp only [gate]
@[simp] theorem gate_cmd1 (mR mL : Int) (c : Bool) (s : State) :
    (gate mR mL c s).der.cmd1 = s.der.cmd1 := by simp only [gate]
@[simp] theorem gate_cmd2 (mR mL : Int) (c : Bool) (s : State) :
    (gate mR mL c s).der.cmd2 = s.der.cmd2 := by simp only [gate]
@[simp] theorem gate_serCnt (mR mL : Int) (c : Bool) (s : State) :
    (gate mR mL c s).der.serCnt = s.der.serCnt := by simp only [gate]
@[simp] theorem gate_linkTimeout (mR mL : Int) (c : Bool) (s : State) :
    (gate mR mL c s).der.linkTimeout = s.der.linkTimeout := by simp only [gate]
@[simp] theorem gate_inactCnt (mR mL : Int) (c : Bool) (s : State) :
    (gate mR mL c s).der.inactCnt = s.der.inactCnt := by simp only [gate]
@[simp] theorem gate_fbDiv (mR mL : Int) (c : Bool) (s : State) :
    (gate mR mL c s).der.fbDiv = s.der.fbDiv := by simp only [gate]
@[simp] theorem gate_tickCnt (mR mL : Int) (c : Bool) (s : State) :
    (gate mR mL c s).der.tickCnt = s.der.tickCnt := by simp only [gate]
@[simp] theorem gate_speedAvg (mR mL : Int) (c : Bool) (s : State) :
    (gate mR mL c s).der.speedAvg = s.der.speedAvg := by simp only [gate]
@[simp] theorem gate_sup (mR mL : Int) (c : Bool) (s : State) :
    (gate mR mL c s).sup = s.sup := by simp only [gate]
@[simp] theorem gate_snap (mR mL : Int) (c : Bool) (s : State) :
    (gate mR mL c s).snap = s.snap := by simp only [gate]
@[simp] theorem gate_enable (mR mL : Int) (c : Bool) (s : State) :
    (gate mR mL c s).out.enable = s.out.enable := by simp only [gate]
@[simp] theorem gate_ctrlOpen (mR mL : Int) (c : Bool) (s : State) :
    (gate mR mL c s).out.ctrlOpen = s.out.ctrlOpen := by simp only [gate]
@[simp] theorem gate_powerLatch (mR mL : Int) (c : Bool) (s : State) :
    (gate mR mL c s).out.powerLatch = s.out.powerLatch := by simp only [gate]
@[simp] theorem gate_ack (mR mL : Int) (c : Bool) (s : State) :
    (gate mR mL c s).out.ack = s.out.ack := by simp only [gate]
@[simp] theorem gate_rxRestart (mR mL : Int) (c : Bool) (s : State) :
    (gate mR mL c s).out.rxRestart = s.out.rxRestart := by simp only [gate]
@[simp] theorem gate_txStart (mR mL : Int) (c : Bool) (s : State) :
    (gate mR mL c s).out.txStart = s.out.txStart := by simp only [gate]
@[simp] theorem gate_buz (mR mL : Int) (c : Bool) (s : State) :
    (gate mR mL c s).out.buz = s.out.buz := by simp only [gate]
@[simp] theorem gate_mem (mR mL : Int) (c : Bool) (s : State) :
    (gate mR mL c s).mem = s.mem := by simp only [gate]
@[simp] theorem gate_ports (mR mL : Int) (c : Bool) (s : State) :
    (gate mR mL c s).ports = s.ports := by simp only [gate]
@[simp] theorem gate_rstCause (mR mL : Int) (c : Bool) (s : State) :
    (gate mR mL c s).rstCause = s.rstCause := by simp only [gate]
@[simp] theorem gate_pending (mR mL : Int) (c : Bool) (s : State) :
    (gate mR mL c s).pending = s.pending := by simp only [gate]
@[simp] theorem gate_bus (mR mL : Int) (c : Bool) (s : State) :
    (gate mR mL c s).bus = s.bus := by simp only [gate]
@[simp] theorem gate_unspecReads (mR mL : Int) (c : Bool) (s : State) :
    (gate mR mL c s).unspecReads = s.unspecReads := by simp only [gate]

/-! ### monitorTemp -/

@[simp] theorem monitorTemp_regs (s : State) :
    (monitorTemp s).regs = s.regs := by simp only [monitorTemp]
@[simp] theorem monitorTemp_ctl (s : State) :
    (monitorTemp s).ctl = s.ctl := by simp only [monitorTemp]
@[simp] theorem monitorTemp_cfg (s : State) :
    (monitorTemp s).cfg = s.cfg := by simp only [monitorTemp]
@[simp] theorem monitorTemp_rlSteer (s : State) :
    (monitorTemp s).filt.rlSteer = s.filt.rlSteer := by simp only [monitorTemp]
@[simp] theorem monitorTemp_rlSpeed (s : State) :
    (monitorTemp s).filt.rlSpeed = s.filt.rlSpeed := by simp only [monitorTemp]
@[simp] theorem monitorTemp_lpfSteer (s : State) :
    (monitorTemp s).filt.lpfSteer = s.filt.lpfSteer := by simp only [monitorTemp]
@[simp] theorem monitorTemp_lpfSpeed (s : State) :
    (monitorTemp s).filt.lpfSpeed = s.filt.lpfSpeed := by simp only [monitorTemp]
@[simp] theorem monitorTemp_steerCmd (s : State) :
    (monitorTemp s).der.steerCmd = s.der.steerCmd := by simp only [monitorTemp]
@[simp] theorem monitorTemp_speedCmd (s : State) :
    (monitorTemp s).der.speedCmd = s.der.speedCmd := by simp only [monitorTemp]
@[simp] theorem monitorTemp_mixR (s : State) :
    (monitorTemp s).der.mixR = s.der.mixR := by simp only [monitorTemp]
@[simp] theorem monitorTemp_mixL (s : State) :
    (monitorTemp s).der.mixL = s.der.mixL := by simp only [monitorTemp]
@[simp] theorem monitorTemp_cmd1 (s : State) :
    (monitorTemp s).der.cmd1 = s.der.cmd1 := by simp only [monitorTemp]
@[simp] theorem monitorTemp_cmd2 (s : State) :
    (monitorTemp s).der.cmd2 = s.der.cmd2 := by simp only [monitorTemp]
@[simp] theorem monitorTemp_serCnt (s : State) :
    (monitorTemp s).der.serCnt = s.der.serCnt := by simp only [monitorTemp]
@[simp] theorem monitorTemp_linkTimeout (s : State) :
    (monitorTemp s).der.linkTimeout = s.der.linkTimeout := by simp only [monitorTemp]
@[simp] theorem monitorTemp_inactCnt (s : State) :
    (monitorTemp s).der.inactCnt = s.der.inactCnt := by simp only [monitorTemp]
@[simp] theorem monitorTemp_fbDiv (s : State) :
    (monitorTemp s).der.fbDiv = s.der.fbDiv := by simp only [monitorTemp]
@[simp] theorem monitorTemp_tickCnt (s : State) :
    (monitorTemp s).der.tickCnt = s.der.tickCnt := by simp only [monitorTemp]
@[simp] theorem monitorTemp_speedAvg (s : State) :
    (monitorTemp s).der.speedAvg = s.der.speedAvg := by simp only [monitorTemp]
@[simp] theorem monitorTemp_sup (s : State) :
    (monitorTemp s).sup = s.sup := by simp only [monitorTemp]
@[simp] theorem monitorTemp_snap (s : State) :
    (monitorTemp s).snap = s.snap := by simp only [monitorTemp]
@[simp] theorem monitorTemp_out (s : State) :
    (monitorTemp s).out = s.out := by simp only [monitorTemp]
@[simp] theorem monitorTemp_mem (s : State) :
    (monitorTemp s).mem = s.mem := by simp only [monitorTemp]
@[simp] theorem monitorTemp_ports (s : State) :
    (monitorTemp s).ports = s.ports := by simp only [monitorTemp]
@[simp] theorem monitorTemp_rstCause (s : State) :
    (monitorTemp s).rstCause = s.rstCause := by simp only [monitorTemp]
@[simp] theorem monitorTemp_pending (s : State) :
    (monitorTemp s).pending = s.pending := by simp only [monitorTemp]
@[simp] theorem monitorTemp_bus (s : State) :
    (monitorTemp s).bus = s.bus := by simp only [monitorTemp]
@[simp] theorem monitorTemp_unspecReads (s : State) :
    (monitorTemp s).unspecReads = s.unspecReads := by simp only [monitorTemp]

/-! ### monitorSpeed -/

@[simp] theorem monitorSpeed_regs (s : State) :
    (monitorSpeed s).regs = s.regs := by simp only [monitorSpeed]
@[simp] theorem monitorSpeed_ctl (s : State) :
    (monitorSpeed s).ctl = s.ctl := by simp only [monitorSpeed]
@[simp] theorem monitorSpeed_cfg (s : State) :
    (monitorSpeed s).cfg = s.cfg := by simp only [monitorSpeed]
@[simp] theorem monitorSpeed_filt (s : State) :
    (monitorSpeed s).filt = s.filt := by simp only [monitorSpeed]
@[simp] theorem monitorSpeed_tempDegc (s : State) :
    (monitorSpeed s).der.tempDegc = s.der.tempDegc := by simp only [monitorSpeed]
@[simp] theorem monitorSpeed_steerCmd (s : State) :
    (monitorSpeed s).der.steerCmd = s.der.steerCmd := by simp only [monitorSpeed]
@[simp] theorem monitorSpeed_speedCmd (s : State) :
    (monitorSpeed s).der.speedCmd = s.der.speedCmd := by simp only [monitorSpeed]
@[simp] theorem monitorSpeed_mixR (s : State) :
    (monitorSpeed s).der.mixR = s.der.mixR := by simp only [monitorSpeed]
@[simp] theorem monitorSpeed_mixL (s : State) :
    (monitorSpeed s).der.mixL = s.der.mixL := by simp only [monitorSpeed]
@[simp] theorem monitorSpeed_cmd1 (s : State) :
    (monitorSpeed s).der.cmd1 = s.der.cmd1 := by simp only [monitorSpeed]
@[simp] theorem monitorSpeed_cmd2 (s : State) :
    (monitorSpeed s).der.cmd2 = s.der.cmd2 := by simp only [monitorSpeed]
@[simp] theorem monitorSpeed_serCnt (s : State) :
    (monitorSpeed s).der.serCnt = s.der.serCnt := by simp only [monitorSpeed]
@[simp] theorem monitorSpeed_linkTimeout (s : State) :
    (monitorSpeed s).der.linkTimeout = s.der.linkTimeout := by simp only [monitorSpeed]
@[simp] theorem monitorSpeed_inactCnt (s : State) :
    (monitorSpeed s).der.inactCnt = s.der.inactCnt := by simp only [monitorSpeed]
@[simp] theorem monitorSpeed_fbDiv (s : State) :
    (monitorSpeed s).der.fbDiv = s.der.fbDiv := by simp only [monitorSpeed]
@[simp] theorem monitorSpeed_tickCnt (s : State) :
    (monitorSpeed s).der.tickCnt = s.der.tickCnt := by simp only [monitorSpeed]
@[simp] theorem monitorSpeed_sup (s : State) :
    (monitorSpeed s).sup = s.sup := by simp only [monitorSpeed]
@[simp] theorem monitorSpeed_snap (s : State) :
    (monitorSpeed s).snap = s.snap := by simp only [monitorSpeed]
@[simp] theorem monitorSpeed_out (s : State) :
    (monitorSpeed s).out = s.out := by simp only [monitorSpeed]
@[simp] theorem monitorSpeed_mem (s : State) :
    (monitorSpeed s).mem = s.mem := by simp only [monitorSpeed]
@[simp] theorem monitorSpeed_ports (s : State) :
    (monitorSpeed s).ports = s.ports := by simp only [monitorSpeed]
@[simp] theorem monitorSpeed_rstCause (s : State) :
    (monitorSpeed s).rstCause = s.rstCause := by simp only [monitorSpeed]
@[simp] theorem monitorSpeed_pending (s : State) :
    (monitorSpeed s).pending = s.pending := by simp only [monitorSpeed]
@[simp] theorem monitorSpeed_bus (s : State) :
    (monitorSpeed s).bus = s.bus := by simp only [monitorSpeed]
@[simp] theorem monitorSpeed_unspecReads (s : State) :
    (monitorSpeed s).unspecReads = s.unspecReads := by simp only [monitorSpeed]

/-! ### emergencyDisable -/

@[simp] theorem emergencyDisable_regs (s : State) :
    (emergencyDisable s).regs = s.regs := by unfold emergencyDisable; split <;> rfl
@[simp] theorem emergencyDisable_cmd (s : State) :
    (emergencyDisable s).ctl.cmd = s.ctl.cmd := by unfold emergencyDisable; split <;> rfl
@[simp] theorem emergencyDisable_status (s : State) :
    (emergencyDisable s).ctl.status = s.ctl.status := by unfold emergencyDisable; split <;> rfl
@[simp] theorem emergencyDisable_errCmd (s : State) :
    (emergencyDisable s).ctl.errCmd = s.ctl.errCmd := by unfold emergencyDisable; split <;> rfl
@[simp] theorem emergencyDisable_cfgValid (s : State) :
    (emergencyDisable s).ctl.cfgValid = s.ctl.cfgValid := by unfold emergencyDisable; split <;> rfl
@[simp] theorem emergencyDisable_irqEn (s : State) :
    (emergencyDisable s).ctl.irqEn = s.ctl.irqEn := by unfold emergencyDisable; split <;> rfl
@[simp] theorem emergencyDisable_rstFlags (s : State) :
    (emergencyDisable s).ctl.rstFlags = s.ctl.rstFlags := by unfold emergencyDisable; split <;> rfl
@[simp] theorem emergencyDisable_cfg (s : State) :
    (emergencyDisable s).cfg = s.cfg := by unfold emergencyDisable; split <;> rfl
@[simp] theorem emergencyDisable_filt (s : State) :
    (emergencyDisable s).filt = s.filt := by unfold emergencyDisable; split <;> rfl
@[simp] theorem emergencyDisable_der (s : State) :
    (emergencyDisable s).der = s.der := by unfold emergencyDisable; split <;> rfl
@[simp] theorem emergencyDisable_poStep (s : State) :
    (emergencyDisable s).sup.poStep = s.sup.poStep := by unfold emergencyDisable; split <;> rfl
@[simp] theorem emergencyDisable_snap (s : State) :
    (emergencyDisable s).snap = s.snap := by unfold emergencyDisable; split <;> rfl
@[simp] theorem emergencyDisable_out (s : State) :
    (emergencyDisable s).out = s.out := by unfold emergencyDisable; split <;> rfl
@[simp] theorem emergencyDisable_mem (s : State) :
    (emergencyDisable s).mem = s.mem := by unfold emergencyDisable; split <;> rfl
@[simp] theorem emergencyDisable_ports (s : State) :
    (emergencyDisable s).ports = s.ports := by unfold emergencyDisable; split <;> rfl
@[simp] theorem emergencyDisable_rstCause (s : State) :
    (emergencyDisable s).rstCause = s.rstCause := by unfold emergencyDisable; split <;> rfl
@[simp] theorem emergencyDisable_pending (s : State) :
    (emergencyDisable s).pending = s.pending := by unfold emergencyDisable; split <;> rfl
@[simp] theorem emergencyDisable_bus (s : State) :
    (emergencyDisable s).bus = s.bus := by unfold emergencyDisable; split <;> rfl
@[simp] theorem emergencyDisable_unspecReads (s : State) :
    (emergencyDisable s).unspecReads = s.unspecReads := by unfold emergencyDisable; split <;> rfl

/-! ### selectTone -/

@[simp] theorem selectTone_regs (c : Bool) (s : State) :
    (selectTone c s).regs = s.regs := by simp only [selectTone]
@[simp] theorem selectTone_ctl (c : Bool) (s : State) :
    (selectTone c s).ctl = s.ctl := by simp only [selectTone]
@[simp] theorem selectTone_cfg (c : Bool) (s : State) :
    (selectTone c s).cfg = s.cfg := by simp only [selectTone]
@[simp] theorem selectTone_filt (c : Bool) (s : State) :
    (selectTone c s).filt = s.filt := by simp only [selectTone]
@[simp] theorem selectTone_der (c : Bool) (s : State) :
    (selectTone c s).der = s.der := by simp only [selectTone]
@[simp] theorem selectTone_sup (c : Bool) (s : State) :
    (selectTone c s).sup = s.sup := by simp only [selectTone]
@[simp] theorem selectTone_snap (c : Bool) (s : State) :
    (selectTone c s).snap = s.snap := by simp only [selectTone]
@[simp] theorem selectTone_tgtR (c : Bool) (s : State) :
    (selectTone c s).out.tgtR = s.out.tgtR := by simp only [selectTone]
@[simp] theorem selectTone_tgtL (c : Bool) (s : State) :
    (selectTone c s).out.tgtL = s.out.tgtL := by simp only [selectTone]
@[simp] theorem selectTone_enable (c : Bool) (s : State) :
    (selectTone c s).out.enable = s.out.enable := by simp only [selectTone]
@[simp] theorem selectTone_ctrlOpen (c : Bool) (s : State) :
    (selectTone c s).out.ctrlOpen = s.out.ctrlOpen := by simp only [selectTone]
@[simp] theorem selectTone_powerLatch (c : Bool) (s : State) :
    (selectTone c s).out.powerLatch = s.out.powerLatch := by simp only [selectTone]
@[simp] theorem selectTone_ack (c : Bool) (s : State) :
    (selectTone c s).out.ack = s.out.ack := by simp only [selectTone]
@[simp] theorem selectTone_rxRestart (c : Bool) (s : State) :
    (selectTone c s).out.rxRestart = s.out.rxRestart := by simp only [selectTone]
@[simp] theorem selectTone_txStart (c : Bool) (s : State) :
    (selectTone c s).out.txStart = s.out.txStart := by simp only [selectTone]
@[simp] theorem selectTone_mem (c : Bool) (s : State) :
    (selectTone c s).mem = s.mem := by simp only [selectTone]
@[simp] theorem selectTone_ports (c : Bool) (s : State) :
    (selectTone c s).ports = s.ports := by simp only [selectTone]
@[simp] theorem selectTone_rstCause (c : Bool) (s : State) :
    (selectTone c s).rstCause = s.rstCause := by simp only [selectTone]
@[simp] theorem selectTone_pending (c : Bool) (s : State) :
    (selectTone c s).pending = s.pending := by simp only [selectTone]
@[simp] theorem selectTone_bus (c : Bool) (s : State) :
    (selectTone c s).bus = s.bus := by simp only [selectTone]
@[simp] theorem selectTone_unspecReads (c : Bool) (s : State) :
    (selectTone c s).unspecReads = s.unspecReads := by simp only [selectTone]

/-! ### monitor -/

@[simp] theorem monitor_regs (c : Bool) (s : State) :
    (monitor c s).regs = s.regs := by simp [monitor]
@[simp] theorem monitor_cmd (c : Bool) (s : State) :
    (monitor c s).ctl.cmd = s.ctl.cmd := by simp [monitor]
@[simp] theorem monitor_status (c : Bool) (s : State) :
    (monitor c s).ctl.status = s.ctl.status := by simp [monitor]
@[simp] theorem monitor_errCmd (c : Bool) (s : State) :
    (monitor c s).ctl.errCmd = s.ctl.errCmd := by simp [monitor]
@[simp] theorem monitor_cfgValid (c : Bool) (s : State) :
    (monitor c s).ctl.cfgValid = s.ctl.cfgValid := by simp [monitor]
@[simp] theorem monitor_irqEn (c : Bool) (s : State) :
    (monitor c s).ctl.irqEn = s.ctl.irqEn := by simp [monitor]
@[simp] theorem monitor_rstFlags (c : Bool) (s : State) :
    (monitor c s).ctl.rstFlags = s.ctl.rstFlags := by simp [monitor]
@[simp] theorem monitor_cfg (c : Bool) (s : State) :
    (monitor c s).cfg = s.cfg := by simp [monitor]
@[simp] theorem monitor_rlSteer (c : Bool) (s : State) :
    (monitor c s).filt.rlSteer = s.filt.rlSteer := by simp [monitor]
@[simp] theorem monitor_rlSpeed (c : Bool) (s : State) :
    (monitor c s).filt.rlSpeed = s.filt.rlSpeed := by simp [monitor]
@[simp] theorem monitor_lpfSteer (c : Bool) (s : State) :
    (monitor c s).filt.lpfSteer = s.filt.lpfSteer := by simp [monitor]
@[simp] theorem monitor_lpfSpeed (c : Bool) (s : State) :
    (monitor c s).filt.lpfSpeed = s.filt.lpfSpeed := by simp [monitor]
@[simp] theorem monitor_steerCmd (c : Bool) (s : State) :
    (monitor c s).der.steerCmd = s.der.steerCmd := by simp [monitor]
@[simp] theorem monitor_speedCmd (c : Bool) (s : State) :
    (monitor c s).der.speedCmd = s.der.speedCmd := by simp [monitor]
@[simp] theorem monitor_mixR (c : Bool) (s : State) :
    (monitor c s).der.mixR = s.der.mixR := by simp [monitor]
@[simp] theorem monitor_mixL (c : Bool) (s : State) :
    (monitor c s).der.mixL = s.der.mixL := by simp [monitor]
@[simp] theorem monitor_cmd1 (c : Bool) (s : State) :
    (monitor c s).der.cmd1 = s.der.cmd1 := by simp [monitor]
@[simp] theorem monitor_cmd2 (c : Bool) (s : State) :
    (monitor c s).der.cmd2 = s.der.cmd2 := by simp [monitor]
@[simp] theorem monitor_serCnt (c : Bool) (s : State) :
    (monitor c s).der.serCnt = s.der.serCnt := by simp [monitor]
@[simp] theorem monitor_linkTimeout (c : Bool) (s : State) :
    (monitor c s).der.linkTimeout = s.der.linkTimeout := by simp [monitor]
@[simp] theorem monitor_inactCnt (c : Bool) (s : State) :
    (monitor c s).der.inactCnt = s.der.inactCnt := by simp [monitor]
@[simp] theorem monitor_fbDiv (c : Bool) (s : State) :
    (monitor c s).der.fbDiv = s.der.fbDiv := by simp [monitor]
@[simp] theorem monitor_tickCnt (c : Bool) (s : State) :
    (monitor c s).der.tickCnt = s.der.tickCnt := by simp [monitor]
@[simp] theorem monitor_poStep (c : Bool) (s : State) :
    (monitor c s).sup.poStep = s.sup.poStep := by simp [monitor]
@[simp] theorem monitor_snap (c : Bool) (s : State) :
    (monitor c s).snap = s.snap := by simp [monitor]
@[simp] theorem monitor_tgtR (c : Bool) (s : State) :
    (monitor c s).out.tgtR = s.out.tgtR := by simp [monitor]
@[simp] theorem monitor_tgtL (c : Bool) (s : State) :
    (monitor c s).out.tgtL = s.out.tgtL := by simp [monitor]
@[simp] theorem monitor_enable (c : Bool) (s : State) :
    (monitor c s).out.enable = s.out.enable := by simp [monitor]
@[simp] theorem monitor_ctrlOpen (c : Bool) (s : State) :
    (monitor c s).out.ctrlOpen = s.out.ctrlOpen := by simp [monitor]
@[simp] theorem monitor_powerLatch (c : Bool) (s : State) :
    (monitor c s).out.powerLatch = s.out.powerLatch := by simp [monitor]
@[simp] theorem monitor_ack (c : Bool) (s : State) :
    (monitor c s).out.ack = s.out.ack := by simp [monitor]
@[simp] theorem monitor_rxRestart (c : Bool) (s : State) :
    (monitor c s).out.rxRestart = s.out.rxRestart := by simp [monitor]
@[simp] theorem monitor_txStart (c : Bool) (s : State) :
    (monitor c s).out.txStart = s.out.txStart := by simp [monitor]
@[simp] theorem monitor_mem (c : Bool) (s : State) :
    (monitor c s).mem = s.mem := by simp [monitor]
@[simp] theorem monitor_ports (c : Bool) (s : State) :
    (monitor c s).ports = s.ports := by simp [monitor]
@[simp] theorem monitor_rstCause (c : Bool) (s : State) :
    (monitor c s).rstCause = s.rstCause := by simp [monitor]
@[simp] theorem monitor_pending (c : Bool) (s : State) :
    (monitor c s).pending = s.pending := by simp [monitor]
@[simp] theorem monitor_bus (c : Bool) (s : State) :
    (monitor c s).bus = s.bus := by simp [monitor]
@[simp] theorem monitor_unspecReads (c : Bool) (s : State) :
    (monitor c s).unspecReads = s.unspecReads := by simp [monitor]

/-! ### stagesMixMonitor -/

@[simp] theorem stagesMixMonitor_regs (c : Bool) (s : State) :
    (stagesMixMonitor c s).regs = s.regs := by simp [stagesMixMonitor]
@[simp] theorem stagesMixMonitor_cmd (c : Bool) (s : State) :
    (stagesMixMonitor c s).ctl.cmd = s.ctl.cmd := by simp [stagesMixMonitor]
@[simp] theorem stagesMixMonitor_status (c : Bool) (s : State) :
    (stagesMixMonitor c s).ctl.status = s.ctl.status := by simp [stagesMixMonitor]
@[simp] theorem stagesMixMonitor_errCmd (c : Bool) (s : State) :
    (stagesMixMonitor c s).ctl.errCmd = s.ctl.errCmd := by simp [stagesMixMonitor]
@[simp] theorem stagesMixMonitor_cfgValid (c : Bool) (s : State) :
    (stagesMixMonitor c s).ctl.cfgValid = s.ctl.cfgValid := by simp [stagesMixMonitor]
@[simp] theorem stagesMixMonitor_irqEn (c : Bool) (s : State) :
    (stagesMixMonitor c s).ctl.irqEn = s.ctl.irqEn := by simp [stagesMixMonitor]
@[simp] theorem stagesMixMonitor_rstFlags (c : Bool) (s : State) :
    (stagesMixMonitor c s).ctl.rstFlags = s.ctl.rstFlags := by simp [stagesMixMonitor]
@[simp] theorem stagesMixMonitor_cfg (c : Bool) (s : State) :
    (stagesMixMonitor c s).cfg = s.cfg := by simp [stagesMixMonitor]
@[simp] theorem stagesMixMonitor_rlSteer (c : Bool) (s : State) :
    (stagesMixMonitor c s).filt.rlSteer = s.filt.rlSteer := by simp [stagesMixMonitor]
@[simp] theorem stagesMixMonitor_rlSpeed (c : Bool) (s : State) :
    (stagesMixMonitor c s).filt.rlSpeed = s.filt.rlSpeed := by simp [stagesMixMonitor]
@[simp] theorem stagesMixMonitor_lpfSteer (c : Bool) (s : State) :
    (stagesMixMonitor c s).filt.lpfSteer = s.filt.lpfSteer := by simp [stagesMixMonitor]
@[simp] theorem stagesMixMonitor_lpfSpeed (c : Bool) (s : State) :
    (stagesMixMonitor c s).filt.lpfSpeed = s.filt.lpfSpeed := by simp [stagesMixMonitor]
@[simp] theorem stagesMixMonitor_steerCmd (c : Bool) (s : State) :
    (stagesMixMonitor c s).der.steerCmd = s.der.steerCmd := by simp [stagesMixMonitor]
@[simp] theorem stagesMixMonitor_speedCmd (c : Bool) (s : State) :
    (stagesMixMonitor c s).der.speedCmd = s.der.speedCmd := by simp [stagesMixMonitor]
@[simp] theorem stagesMixMonitor_cmd1 (c : Bool) (s : State) :
    (stagesMixMonitor c s).der.cmd1 = s.der.cmd1 := by simp [stagesMixMonitor]
@[simp] theorem stagesMixMonitor_cmd2 (c : Bool) (s : State) :
    (stagesMixMonitor c s).der.cmd2 = s.der.cmd2 := by simp [stagesMixMonitor]
@[simp] theorem stagesMixMonitor_serCnt (c : Bool) (s : State) :
    (stagesMixMonitor c s).der.serCnt = s.der.serCnt := by simp [stagesMixMonitor]
@[simp] theorem stagesMixMonitor_linkTimeout (c : Bool) (s : State) :
    (stagesMixMonitor c s).der.linkTimeout = s.der.linkTimeout := by simp [stagesMixMonitor]
@[simp] theorem stagesMixMonitor_inactCnt (c : Bool) (s : State) :
    (stagesMixMonitor c s).der.inactCnt = s.der.inactCnt := by simp [stagesMixMonitor]
@[simp] theorem stagesMixMonitor_fbDiv (c : Bool) (s : State) :
    (stagesMixMonitor c s).der.fbDiv = s.der.fbDiv := by simp [stagesMixMonitor]
@[simp] theorem stagesMixMonitor_tickCnt (c : Bool) (s : State) :
    (stagesMixMonitor c s).der.tickCnt = s.der.tickCnt := by simp [stagesMixMonitor]
@[simp] theorem stagesMixMonitor_poStep (c : Bool) (s : State) :
    (stagesMixMonitor c s).sup.poStep = s.sup.poStep := by simp [stagesMixMonitor]
@[simp] theorem stagesMixMonitor_snap (c : Bool) (s : State) :
    (stagesMixMonitor c s).snap = s.snap := by simp [stagesMixMonitor]
@[simp] theorem stagesMixMonitor_enable (c : Bool) (s : State) :
    (stagesMixMonitor c s).out.enable = s.out.enable := by simp [stagesMixMonitor]
@[simp] theorem stagesMixMonitor_ctrlOpen (c : Bool) (s : State) :
    (stagesMixMonitor c s).out.ctrlOpen = s.out.ctrlOpen := by simp [stagesMixMonitor]
@[simp] theorem stagesMixMonitor_powerLatch (c : Bool) (s : State) :
    (stagesMixMonitor c s).out.powerLatch = s.out.powerLatch := by simp [stagesMixMonitor]
@[simp] theorem stagesMixMonitor_ack (c : Bool) (s : State) :
    (stagesMixMonitor c s).out.ack = s.out.ack := by simp [stagesMixMonitor]
@[simp] theorem stagesMixMonitor_rxRestart (c : Bool) (s : State) :
    (stagesMixMonitor c s).out.rxRestart = s.out.rxRestart := by simp [stagesMixMonitor]
@[simp] theorem stagesMixMonitor_txStart (c : Bool) (s : State) :
    (stagesMixMonitor c s).out.txStart = s.out.txStart := by simp [stagesMixMonitor]
@[simp] theorem stagesMixMonitor_mem (c : Bool) (s : State) :
    (stagesMixMonitor c s).mem = s.mem := by simp [stagesMixMonitor]
@[simp] theorem stagesMixMonitor_ports (c : Bool) (s : State) :
    (stagesMixMonitor c s).ports = s.ports := by simp [stagesMixMonitor]
@[simp] theorem stagesMixMonitor_rstCause (c : Bool) (s : State) :
    (stagesMixMonitor c s).rstCause = s.rstCause := by simp [stagesMixMonitor]
@[simp] theorem stagesMixMonitor_pending (c : Bool) (s : State) :
    (stagesMixMonitor c s).pending = s.pending := by simp [stagesMixMonitor]
@[simp] theorem stagesMixMonitor_bus (c : Bool) (s : State) :
    (stagesMixMonitor c s).bus = s.bus := by simp [stagesMixMonitor]
@[simp] theorem stagesMixMonitor_unspecReads (c : Bool) (s : State) :
    (stagesMixMonitor c s).unspecReads = s.unspecReads := by simp [stagesMixMonitor]

/-! ### enterPowerOff -/

@[simp] theorem enterPowerOff_regs (s : State) :
    (enterPowerOff s).regs = s.regs := rfl
@[simp] theorem enterPowerOff_cmd (s : State) :
    (enterPowerOff s).ctl.cmd = s.ctl.cmd := rfl
@[simp] theorem enterPowerOff_status (s : State) :
    (enterPowerOff s).ctl.status = s.ctl.status := rfl
@[simp] theorem enterPowerOff_errCmd (s : State) :
    (enterPowerOff s).ctl.errCmd = s.ctl.errCmd := rfl
@[simp] theorem enterPowerOff_cfgValid (s : State) :
    (enterPowerOff s).ctl.cfgValid = s.ctl.cfgValid := rfl
@[simp] theorem enterPowerOff_irqEn (s : State) :
    (enterPowerOff s).ctl.irqEn = s.ctl.irqEn := rfl
@[simp] theorem enterPowerOff_rstFlags (s : State) :
    (enterPowerOff s).ctl.rstFlags = s.ctl.rstFlags := rfl
@[simp] theorem enterPowerOff_cfg (s : State) :
    (enterPowerOff s).cfg = s.cfg := rfl
@[simp] theorem enterPowerOff_filt (s : State) :
    (enterPowerOff s).filt = s.filt := rfl
@[simp] theorem enterPowerOff_der (s : State) :
    (enterPowerOff s).der = s.der := rfl
@[simp] theorem enterPowerOff_snap (s : State) :
    (enterPowerOff s).snap = s.snap := rfl
@[simp] theorem enterPowerOff_out (s : State) :
    (enterPowerOff s).out = s.out := rfl
@[simp] theorem enterPowerOff_mem (s : State) :
    (enterPowerOff s).mem = s.mem := rfl
@[simp] theorem enterPowerOff_ports (s : State) :
    (enterPowerOff s).ports = s.ports := rfl
@[simp] theorem enterPowerOff_rstCause (s : State) :
    (enterPowerOff s).rstCause = s.rstCause := rfl
@[simp] theorem enterPowerOff_pending (s : State) :
    (enterPowerOff s).pending = s.pending := rfl
@[simp] theorem enterPowerOff_bus (s : State) :
    (enterPowerOff s).bus = s.bus := rfl
@[simp] theorem enterPowerOff_unspecReads (s : State) :
    (enterPowerOff s).unspecReads = s.unspecReads := rfl

/-! ### countInactivity -/

@[simp] theorem countInactivity_regs (s : State) :
    (countInactivity s).regs = s.regs := by simp only [countInactivity]
@[simp] theorem countInactivity_ctl (s : State) :
    (countInactivity s).ctl = s.ctl := by simp only [countInactivity]
@[simp] theorem countInactivity_cfg (s : State) :
    (countInactivity s).cfg = s.cfg := by simp only [countInactivity]
@[simp] theorem countInactivity_filt (s : State) :
    (countInactivity s).filt = s.filt := by simp only [countInactivity]
@[simp] theorem countInactivity_tempDegc (s : State) :
    (countInactivity s).der.tempDegc = s.der.tempDegc := by simp only [countInactivity]
@[simp] theorem countInactivity_steerCmd (s : State) :
    (countInactivity s).der.steerCmd = s.der.steerCmd := by simp only [countInactivity]
@[simp] theorem countInactivity_speedCmd (s : State) :
    (countInactivity s).der.speedCmd = s.der.speedCmd := by simp only [countInactivity]
@[simp] theorem countInactivity_mixR (s : State) :
    (countInactivity s).der.mixR = s.der.mixR := by simp only [countInactivity]
@[simp] theorem countInactivity_mixL (s : State) :
    (countInactivity s).der.mixL = s.der.mixL := by simp only [countInactivity]
@[simp] theorem countInactivity_cmd1 (s : State) :
    (countInactivity s).der.cmd1 = s.der.cmd1 := by simp only [countInactivity]
@[simp] theorem countInactivity_cmd2 (s : State) :
    (countInactivity s).der.cmd2 = s.der.cmd2 := by simp only [countInactivity]
@[simp] theorem countInactivity_serCnt (s : State) :
    (countInactivity s).der.serCnt = s.der.serCnt := by simp only [countInactivity]
@[simp] theorem countInactivity_linkTimeout (s : State) :
    (countInactivity s).der.linkTimeout = s.der.linkTimeout := by simp only [countInactivity]
@[simp] theorem countInactivity_fbDiv (s : State) :
    (countInactivity s).der.fbDiv = s.der.fbDiv := by simp only [countInactivity]
@[simp] theorem countInactivity_tickCnt (s : State) :
    (countInactivity s).der.tickCnt = s.der.tickCnt := by simp only [countInactivity]
@[simp] theorem countInactivity_speedAvg (s : State) :
    (countInactivity s).der.speedAvg = s.der.speedAvg := by simp only [countInactivity]
@[simp] theorem countInactivity_sup (s : State) :
    (countInactivity s).sup = s.sup := by simp only [countInactivity]
@[simp] theorem countInactivity_snap (s : State) :
    (countInactivity s).snap = s.snap := by simp only [countInactivity]
@[simp] theorem countInactivity_out (s : State) :
    (countInactivity s).out = s.out := by simp only [countInactivity]
@[simp] theorem countInactivity_mem (s : State) :
    (countInactivity s).mem = s.mem := by simp only [countInactivity]
@[simp] theorem countInactivity_ports (s : State) :
    (countInactivity s).ports = s.ports := by simp only [countInactivity]
@[simp] theorem countInactivity_rstCause (s : State) :
    (countInactivity s).rstCause = s.rstCause := by simp only [countInactivity]
@[simp] theorem countInactivity_pending (s : State) :
    (countInactivity s).pending = s.pending := by simp only [countInactivity]
@[simp] theorem countInactivity_bus (s : State) :
    (countInactivity s).bus = s.bus := by simp only [countInactivity]
@[simp] theorem countInactivity_unspecReads (s : State) :
    (countInactivity s).unspecReads = s.unspecReads := by simp only [countInactivity]

/-! ### buildFrame -/

@[simp] theorem buildFrame_regs (s : State) :
    (buildFrame s).regs = s.regs := by simp only [buildFrame]
@[simp] theorem buildFrame_ctl (s : State) :
    (buildFrame s).ctl = s.ctl := by simp only [buildFrame]
@[simp] theorem buildFrame_cfg (s : State) :
    (buildFrame s).cfg = s.cfg := by simp only [buildFrame]
@[simp] theorem buildFrame_filt (s : State) :
    (buildFrame s).filt = s.filt := by simp only [buildFrame]
@[simp] theorem buildFrame_der (s : State) :
    (buildFrame s).der = s.der := by simp only [buildFrame]
@[simp] theorem buildFrame_sup (s : State) :
    (buildFrame s).sup = s.sup := by simp only [buildFrame]
@[simp] theorem buildFrame_snap (s : State) :
    (buildFrame s).snap = s.snap := by simp only [buildFrame]
@[simp] theorem buildFrame_out (s : State) :
    (buildFrame s).out = s.out := by simp only [buildFrame]
@[simp] theorem buildFrame_ports (s : State) :
    (buildFrame s).ports = s.ports := by simp only [buildFrame]
@[simp] theorem buildFrame_rstCause (s : State) :
    (buildFrame s).rstCause = s.rstCause := by simp only [buildFrame]
@[simp] theorem buildFrame_pending (s : State) :
    (buildFrame s).pending = s.pending := by simp only [buildFrame]
@[simp] theorem buildFrame_bus (s : State) :
    (buildFrame s).bus = s.bus := by simp only [buildFrame]
@[simp] theorem buildFrame_unspecReads (s : State) :
    (buildFrame s).unspecReads = s.unspecReads := by simp only [buildFrame]

/-! ### feedback -/

@[simp] theorem feedback_regs (s : State) :
    (feedback s).regs = s.regs := by unfold feedback; simp only; split <;> rfl
@[simp] theorem feedback_cmd (s : State) :
    (feedback s).ctl.cmd = s.ctl.cmd := by unfold feedback; simp only; split <;> rfl
@[simp] theorem feedback_status (s : State) :
    (feedback s).ctl.status = s.ctl.status := by unfold feedback; simp only; split <;> rfl
@[simp] theorem feedback_errCmd (s : State) :
    (feedback s).ctl.errCmd = s.ctl.errCmd := by unfold feedback; simp only; split <;> rfl
@[simp] theorem feedback_cfgValid (s : State) :
    (feedback s).ctl.cfgValid = s.ctl.cfgValid := by unfold feedback; simp only; split <;> rfl
@[simp] theorem feedback_irqEn (s : State) :
    (feedback s).ctl.irqEn = s.ctl.irqEn := by unfold feedback; simp only; split <;> rfl
@[simp] theorem feedback_rstFlags (s : State) :
    (feedback s).ctl.rstFlags = s.ctl.rstFlags := by unfold feedback; simp only; split <;> rfl
@[simp] theorem feedback_cfg (s : State) :
    (feedback s).cfg = s.cfg := by unfold feedback; simp only; split <;> rfl
@[simp] theorem feedback_filt (s : State) :
    (feedback s).filt = s.filt := by unfold feedback; simp only; split <;> rfl
@[simp] theorem feedback_tempDegc (s : State) :
    (feedback s).der.tempDegc = s.der.tempDegc := by unfold feedback; simp only; split <;> rfl
@[simp] theorem feedback_steerCmd (s : State) :
    (feedback s).der.steerCmd = s.der.steerCmd := by unfold feedback; simp only; split <;> rfl
@[simp] theorem feedback_speedCmd (s : State) :
    (feedback s).der.speedCmd = s.der.speedCmd := by unfold feedback; simp only; split <;> rfl
@[simp] theorem feedback_mixR (s : State) :
    (feedback s).der.mixR = s.der.mixR := by unfold feedback; simp only; split <;> rfl
@[simp] theorem feedback_mixL (s : State) :
    (feedback s).der.mixL = s.der.mixL := by unfold feedback; simp only; split <;> rfl
@[simp] theorem feedback_cmd1 (s : State) :
    (feedback s).der.cmd1 = s.der.cmd1 := by unfold feedback; simp only; split <;> rfl
@[simp] theorem feedback_cmd2 (s : State) :
    (feedback s).der.cmd2 = s.der.cmd2 := by unfold feedback; simp only; split <;> rfl
@[simp] theorem feedback_serCnt (s : State) :
    (feedback s).der.serCnt = s.der.serCnt := by unfold feedback; simp only; split <;> rfl
@[simp] theorem feedback_linkTimeout (s : State) :
    (feedback s).der.linkTimeout = s.der.linkTimeout := by unfold feedback; simp only; split <;> rfl
@[simp] theorem feedback_inactCnt (s : State) :
    (feedback s).der.inactCnt = s.der.inactCnt := by unfold feedback; simp only; split <;> rfl
@[simp] theorem feedback_tickCnt (s : State) :
    (feedback s).der.tickCnt = s.der.tickCnt := by unfold feedback; simp only; split <;> rfl
@[simp] theorem feedback_speedAvg (s : State) :
    (feedback s).der.speedAvg = s.der.speedAvg := by unfold feedback; simp only; split <;> rfl
@[simp] theorem feedback_sup (s : State) :
    (feedback s).sup = s.sup := by unfold feedback; simp only; split <;> rfl
@[simp] theorem feedback_snap (s : State) :
    (feedback s).snap = s.snap := by unfold feedback; simp only; split <;> rfl
@[simp] theorem feedback_tgtR (s : State) :
    (feedback s).out.tgtR = s.out.tgtR := by unfold feedback; simp only; split <;> rfl
@[simp] theorem feedback_tgtL (s : State) :
    (feedback s).out.tgtL = s.out.tgtL := by unfold feedback; simp only; split <;> rfl
@[simp] theorem feedback_enable (s : State) :
    (feedback s).out.enable = s.out.enable := by unfold feedback; simp only; split <;> rfl
@[simp] theorem feedback_ctrlOpen (s : State) :
    (feedback s).out.ctrlOpen = s.out.ctrlOpen := by unfold feedback; simp only; split <;> rfl
@[simp] theorem feedback_powerLatch (s : State) :
    (feedback s).out.powerLatch = s.out.powerLatch := by unfold feedback; simp only; split <;> rfl
@[simp] theorem feedback_ack (s : State) :
    (feedback s).out.ack = s.out.ack := by unfold feedback; simp only; split <;> rfl
@[simp] theorem feedback_rxRestart (s : State) :
    (feedback s).out.rxRestart = s.out.rxRestart := by unfold feedback; simp only; split <;> rfl
@[simp] theorem feedback_buz (s : State) :
    (feedback s).out.buz = s.out.buz := by unfold feedback; simp only; split <;> rfl
@[simp] theorem feedback_ports (s : State) :
    (feedback s).ports = s.ports := by unfold feedback; simp only; split <;> rfl
@[simp] theorem feedback_rstCause (s : State) :
    (feedback s).rstCause = s.rstCause := by unfold feedback; simp only; split <;> rfl
@[simp] theorem feedback_pending (s : State) :
    (feedback s).pending = s.pending := by unfold feedback; simp only; split <;> rfl
@[simp] theorem feedback_bus (s : State) :
    (feedback s).bus = s.bus := by unfold feedback; simp only; split <;> rfl
@[simp] theorem feedback_unspecReads (s : State) :
    (feedback s).unspecReads = s.unspecReads := by unfold feedback; simp only; split <;> rfl

/-! ### stagesInactivityFeedback -/

@[simp] theorem stagesInactivityFeedback_regs (s : State) :
    (stagesInactivityFeedback s).regs = s.regs := by unfold stagesInactivityFeedback; simp only; split <;> simp
@[simp] theorem stagesInactivityFeedback_cmd (s : State) :
    (stagesInactivityFeedback s).ctl.cmd = s.ctl.cmd := by unfold stagesInactivityFeedback; simp only; split <;> simp
@[simp] theorem stagesInactivityFeedback_status (s : State) :
    (stagesInactivityFeedback s).ctl.status = s.ctl.status := by unfold stagesInactivityFeedback; simp only; split <;> simp
@[simp] theorem stagesInactivityFeedback_errCmd (s : State) :
    (stagesInactivityFeedback s).ctl.errCmd = s.ctl.errCmd := by unfold stagesInactivityFeedback; simp only; split <;> simp
@[simp] theorem stagesInactivityFeedback_cfgValid (s : State) :
    (stagesInactivityFeedback s).ctl.cfgValid = s.ctl.cfgValid := by unfold stagesInactivityFeedback; simp only; split <;> simp
@[simp] theorem stagesInactivityFeedback_irqEn (s : State) :
    (stagesInactivityFeedback s).ctl.irqEn = s.ctl.irqEn := by unfold stagesInactivityFeedback; simp only; split <;> simp
@[simp] theorem stagesInactivityFeedback_rstFlags (s : State) :
    (stagesInactivityFeedback s).ctl.rstFlags = s.ctl.rstFlags := by unfold stagesInactivityFeedback; simp only; split <;> simp
@[simp] theorem stagesInactivityFeedback_cfg (s : State) :
    (stagesInactivityFeedback s).cfg = s.cfg := by unfold stagesInactivityFeedback; simp only; split <;> simp
@[simp] theorem stagesInactivityFeedback_filt (s : State) :
    (stagesInactivityFeedback s).filt = s.filt := by unfold stagesInactivityFeedback; simp only; split <;> simp
@[simp] theorem stagesInactivityFeedback_tempDegc (s : State) :
    (stagesInactivityFeedback s).der.tempDegc = s.der.tempDegc := by unfold stagesInactivityFeedback; simp only; split <;> simp
@[simp] theorem stagesInactivityFeedback_steerCmd (s : State) :
    (stagesInactivityFeedback s).der.steerCmd = s.der.steerCmd := by unfold stagesInactivityFeedback; simp only; split <;> simp
@[simp] theorem stagesInactivityFeedback_speedCmd (s : State) :
    (stagesInactivityFeedback s).der.speedCmd = s.der.speedCmd := by unfold stagesInactivityFeedback; simp only; split <;> simp
@[simp] theorem stagesInactivityFeedback_mixR (s : State) :
    (stagesInactivityFeedback s).der.mixR = s.der.mixR := by unfold stagesInactivityFeedback; simp only; split <;> simp
@[simp] theorem stagesInactivityFeedback_mixL (s : State) :
    (stagesInactivityFeedback s).der.mixL = s.der.mixL := by unfold stagesInactivityFeedback; simp only; split <;> simp
@[simp] theorem stagesInactivityFeedback_cmd1 (s : State) :
    (stagesInactivityFeedback s).der.cmd1 = s.der.cmd1 := by unfold stagesInactivityFeedback; simp only; split <;> simp
@[simp] theorem stagesInactivityFeedback_cmd2 (s : State) :
    (stagesInactivityFeedback s).der.cmd2 = s.der.cmd2 := by unfold stagesInactivityFeedback; simp only; split <;> simp
@[simp] theorem stagesInactivityFeedback_serCnt (s : State) :
    (stagesInactivityFeedback s).der.serCnt = s.der.serCnt := by unfold stagesInactivityFeedback; simp only; split <;> simp
@[simp] theorem stagesInactivityFeedback_linkTimeout (s : State) :
    (stagesInactivityFeedback s).der.linkTimeout = s.der.linkTimeout := by unfold stagesInactivityFeedback; simp only; split <;> simp
@[simp] theorem stagesInactivityFeedback_tickCnt (s : State) :
    (stagesInactivityFeedback s).der.tickCnt = s.der.tickCnt := by unfold stagesInactivityFeedback; simp only; split <;> simp
@[simp] theorem stagesInactivityFeedback_speedAvg (s : State) :
    (stagesInactivityFeedback s).der.speedAvg = s.der.speedAvg := by unfold stagesInactivityFeedback; simp only; split <;> simp
@[simp] theorem stagesInactivityFeedback_snap (s : State) :
    (stagesInactivityFeedback s).snap = s.snap := by unfold stagesInactivityFeedback; simp only; split <;> simp
@[simp] theorem stagesInactivityFeedback_tgtR (s : State) :
    (stagesInactivityFeedback s).out.tgtR = s.out.tgtR := by unfold stagesInactivityFeedback; simp only; split <;> simp
@[simp] theorem stagesInactivityFeedback_tgtL (s : State) :
    (stagesInactivityFeedback s).out.tgtL = s.out.tgtL := by unfold stagesInactivityFeedback; simp only; split <;> simp
@[simp] theorem stagesInactivityFeedback_enable (s : State) :
    (stagesInactivityFeedback s).out.enable = s.out.enable := by unfold stagesInactivityFeedback; simp only; split <;> simp
@[simp] theorem stagesInactivityFeedback_ctrlOpen (s : State) :
    (stagesInactivityFeedback s).out.ctrlOpen = s.out.ctrlOpen := by unfold stagesInactivityFeedback; simp only; split <;> simp
@[simp] theorem stagesInactivityFeedback_powerLatch (s : State) :
    (stagesInactivityFeedback s).out.powerLatch = s.out.powerLatch := by unfold stagesInactivityFeedback; simp only; split <;> simp
@[simp] theorem stagesInactivityFeedback_ack (s : State) :
    (stagesInactivityFeedback s).out.ack = s.out.ack := by unfold stagesInactivityFeedback; simp only; split <;> simp
@[simp] theorem stagesInactivityFeedback_rxRestart (s : State) :
    (stagesInactivityFeedback s).out.rxRestart = s.out.rxRestart := by unfold stagesInactivityFeedback; simp only; split <;> simp
@[simp] theorem stagesInactivityFeedback_buz (s : State) :
    (stagesInactivityFeedback s).out.buz = s.out.buz := by unfold stagesInactivityFeedback; simp only; split <;> simp
@[simp] theorem stagesInactivityFeedback_ports (s : State) :
    (stagesInactivityFeedback s).ports = s.ports := by unfold stagesInactivityFeedback; simp only; split <;> simp
@[simp] theorem stagesInactivityFeedback_rstCause (s : State) :
    (stagesInactivityFeedback s).rstCause = s.rstCause := by unfold stagesInactivityFeedback; simp only; split <;> simp
@[simp] theorem stagesInactivityFeedback_pending (s : State) :
    (stagesInactivityFeedback s).pending = s.pending := by unfold stagesInactivityFeedback; simp only; split <;> simp
@[simp] theorem stagesInactivityFeedback_bus (s : State) :
    (stagesInactivityFeedback s).bus = s.bus := by unfold stagesInactivityFeedback; simp only; split <;> simp
@[simp] theorem stagesInactivityFeedback_unspecReads (s : State) :
    (stagesInactivityFeedback s).unspecReads = s.unspecReads := by unfold stagesInactivityFeedback; simp only; split <;> simp

/-! ### driveEnable -/

@[simp] theorem driveEnable_regs (s : State) :
    (driveEnable s).regs = s.regs := rfl
@[simp] theorem driveEnable_ctl (s : State) :
    (driveEnable s).ctl = s.ctl := rfl
@[simp] theorem driveEnable_cfg (s : State) :
    (driveEnable s).cfg = s.cfg := rfl
@[simp] theorem driveEnable_filt (s : State) :
    (driveEnable s).filt = s.filt := rfl
@[simp] theorem driveEnable_der (s : State) :
    (driveEnable s).der = s.der := rfl
@[simp] theorem driveEnable_sup (s : State) :
    (driveEnable s).sup = s.sup := rfl
@[simp] theorem driveEnable_snap (s : State) :
    (driveEnable s).snap = s.snap := rfl
@[simp] theorem driveEnable_tgtR (s : State) :
    (driveEnable s).out.tgtR = s.out.tgtR := rfl
@[simp] theorem driveEnable_tgtL (s : State) :
    (driveEnable s).out.tgtL = s.out.tgtL := rfl
@[simp] theorem driveEnable_ctrlOpen (s : State) :
    (driveEnable s).out.ctrlOpen = s.out.ctrlOpen := rfl
@[simp] theorem driveEnable_powerLatch (s : State) :
    (driveEnable s).out.powerLatch = s.out.powerLatch := rfl
@[simp] theorem driveEnable_ack (s : State) :
    (driveEnable s).out.ack = s.out.ack := rfl
@[simp] theorem driveEnable_rxRestart (s : State) :
    (driveEnable s).out.rxRestart = s.out.rxRestart := rfl
@[simp] theorem driveEnable_txStart (s : State) :
    (driveEnable s).out.txStart = s.out.txStart := rfl
@[simp] theorem driveEnable_buz (s : State) :
    (driveEnable s).out.buz = s.out.buz := rfl
@[simp] theorem driveEnable_mem (s : State) :
    (driveEnable s).mem = s.mem := rfl
@[simp] theorem driveEnable_ports (s : State) :
    (driveEnable s).ports = s.ports := rfl
@[simp] theorem driveEnable_rstCause (s : State) :
    (driveEnable s).rstCause = s.rstCause := rfl
@[simp] theorem driveEnable_pending (s : State) :
    (driveEnable s).pending = s.pending := rfl
@[simp] theorem driveEnable_bus (s : State) :
    (driveEnable s).bus = s.bus := rfl
@[simp] theorem driveEnable_unspecReads (s : State) :
    (driveEnable s).unspecReads = s.unspecReads := rfl

/-! ### endOfTick -/

@[simp] theorem endOfTick_regs (e : Bool) (s : State) :
    (endOfTick e s).regs = s.regs := by unfold endOfTick; split <;> rfl
@[simp] theorem endOfTick_cmd (e : Bool) (s : State) :
    (endOfTick e s).ctl.cmd = s.ctl.cmd := by unfold endOfTick; split <;> rfl
@[simp] theorem endOfTick_status (e : Bool) (s : State) :
    (endOfTick e s).ctl.status = s.ctl.status := by unfold endOfTick; split <;> rfl
@[simp] theorem endOfTick_errCmd (e : Bool) (s : State) :
    (endOfTick e s).ctl.errCmd = s.ctl.errCmd := by unfold endOfTick; split <;> rfl
@[simp] theorem endOfTick_cfgValid (e : Bool) (s : State) :
    (endOfTick e s).ctl.cfgValid = s.ctl.cfgValid := by unfold endOfTick; split <;> rfl
@[simp] theorem endOfTick_irqEn (e : Bool) (s : State) :
    (endOfTick e s).ctl.irqEn = s.ctl.irqEn := by unfold endOfTick; split <;> rfl
@[simp] theorem endOfTick_rstFlags (e : Bool) (s : State) :
    (endOfTick e s).ctl.rstFlags = s.ctl.rstFlags := by unfold endOfTick; split <;> rfl
@[simp] theorem endOfTick_cfg (e : Bool) (s : State) :
    (endOfTick e s).cfg = s.cfg := by unfold endOfTick; split <;> rfl
@[simp] theorem endOfTick_filt (e : Bool) (s : State) :
    (endOfTick e s).filt = s.filt := by unfold endOfTick; split <;> rfl
@[simp] theorem endOfTick_der (e : Bool) (s : State) :
    (endOfTick e s).der = s.der := by unfold endOfTick; split <;> rfl
@[simp] theorem endOfTick_sup (e : Bool) (s : State) :
    (endOfTick e s).sup = s.sup := by unfold endOfTick; split <;> rfl
@[simp] theorem endOfTick_snap (e : Bool) (s : State) :
    (endOfTick e s).snap = s.snap := by unfold endOfTick; split <;> rfl
@[simp] theorem endOfTick_tgtR (e : Bool) (s : State) :
    (endOfTick e s).out.tgtR = s.out.tgtR := by unfold endOfTick; split <;> rfl
@[simp] theorem endOfTick_tgtL (e : Bool) (s : State) :
    (endOfTick e s).out.tgtL = s.out.tgtL := by unfold endOfTick; split <;> rfl
@[simp] theorem endOfTick_ctrlOpen (e : Bool) (s : State) :
    (endOfTick e s).out.ctrlOpen = s.out.ctrlOpen := by unfold endOfTick; split <;> rfl
@[simp] theorem endOfTick_powerLatch (e : Bool) (s : State) :
    (endOfTick e s).out.powerLatch = s.out.powerLatch := by unfold endOfTick; split <;> rfl
@[simp] theorem endOfTick_rxRestart (e : Bool) (s : State) :
    (endOfTick e s).out.rxRestart = s.out.rxRestart := by unfold endOfTick; split <;> rfl
@[simp] theorem endOfTick_txStart (e : Bool) (s : State) :
    (endOfTick e s).out.txStart = s.out.txStart := by unfold endOfTick; split <;> rfl
@[simp] theorem endOfTick_buz (e : Bool) (s : State) :
    (endOfTick e s).out.buz = s.out.buz := by unfold endOfTick; split <;> rfl
@[simp] theorem endOfTick_mem (e : Bool) (s : State) :
    (endOfTick e s).mem = s.mem := by unfold endOfTick; split <;> rfl
@[simp] theorem endOfTick_ports (e : Bool) (s : State) :
    (endOfTick e s).ports = s.ports := by unfold endOfTick; split <;> rfl
@[simp] theorem endOfTick_rstCause (e : Bool) (s : State) :
    (endOfTick e s).rstCause = s.rstCause := by unfold endOfTick; split <;> rfl
@[simp] theorem endOfTick_pending (e : Bool) (s : State) :
    (endOfTick e s).pending = s.pending := by unfold endOfTick; split <;> rfl
@[simp] theorem endOfTick_bus (e : Bool) (s : State) :
    (endOfTick e s).bus = s.bus := by unfold endOfTick; split <;> rfl
@[simp] theorem endOfTick_unspecReads (e : Bool) (s : State) :
    (endOfTick e s).unspecReads = s.unspecReads := by unfold endOfTick; split <;> rfl

/-! ### buttonPress -/

@[simp] theorem buttonPress_regs (s : State) :
    (buttonPress s).regs = s.regs := rfl
@[simp] theorem buttonPress_cmd (s : State) :
    (buttonPress s).ctl.cmd = s.ctl.cmd := rfl
@[simp] theorem buttonPress_status (s : State) :
    (buttonPress s).ctl.status = s.ctl.status := rfl
@[simp] theorem buttonPress_errCmd (s : State) :
    (buttonPress s).ctl.errCmd = s.ctl.errCmd := rfl
@[simp] theorem buttonPress_cfgValid (s : State) :
    (buttonPress s).ctl.cfgValid = s.ctl.cfgValid := rfl
@[simp] theorem buttonPress_irqEn (s : State) :
    (buttonPress s).ctl.irqEn = s.ctl.irqEn := rfl
@[simp] theorem buttonPress_rstFlags (s : State) :
    (buttonPress s).ctl.rstFlags = s.ctl.rstFlags := rfl
@[simp] theorem buttonPress_cfg (s : State) :
    (buttonPress s).cfg = s.cfg := rfl
@[simp] theorem buttonPress_filt (s : State) :
    (buttonPress s).filt = s.filt := rfl
@[simp] theorem buttonPress_der (s : State) :
    (buttonPress s).der = s.der := rfl
@[simp] theorem buttonPress_poStep (s : State) :
    (buttonPress s).sup.poStep = s.sup.poStep := rfl
@[simp] theorem buttonPress_snap (s : State) :
    (buttonPress s).snap = s.snap := rfl
@[simp] theorem buttonPress_tgtR (s : State) :
    (buttonPress s).out.tgtR = s.out.tgtR := rfl
@[simp] theorem buttonPress_tgtL (s : State) :
    (buttonPress s).out.tgtL = s.out.tgtL := rfl
@[simp] theorem buttonPress_ctrlOpen (s : State) :
    (buttonPress s).out.ctrlOpen = s.out.ctrlOpen := rfl
@[simp] theorem buttonPress_powerLatch (s : State) :
    (buttonPress s).out.powerLatch = s.out.powerLatch := rfl
@[simp] theorem buttonPress_ack (s : State) :
    (buttonPress s).out.ack = s.out.ack := rfl
@[simp] theorem buttonPress_rxRestart (s : State) :
    (buttonPress s).out.rxRestart = s.out.rxRestart := rfl
@[simp] theorem buttonPress_txStart (s : State) :
    (buttonPress s).out.txStart = s.out.txStart := rfl
@[simp] theorem buttonPress_mem (s : State) :
    (buttonPress s).mem = s.mem := rfl
@[simp] theorem buttonPress_ports (s : State) :
    (buttonPress s).ports = s.ports := rfl
@[simp] theorem buttonPress_rstCause (s : State) :
    (buttonPress s).rstCause = s.rstCause := rfl
@[simp] theorem buttonPress_pending (s : State) :
    (buttonPress s).pending = s.pending := rfl
@[simp] theorem buttonPress_bus (s : State) :
    (buttonPress s).bus = s.bus := rfl
@[simp] theorem buttonPress_unspecReads (s : State) :
    (buttonPress s).unspecReads = s.unspecReads := rfl

/-! ### resume -/

@[simp] theorem resume_regs (s : State) :
    (resume s).regs = s.regs := rfl
@[simp] theorem resume_cmd (s : State) :
    (resume s).ctl.cmd = s.ctl.cmd := rfl
@[simp] theorem resume_status (s : State) :
    (resume s).ctl.status = s.ctl.status := rfl
@[simp] theorem resume_errCmd (s : State) :
    (resume s).ctl.errCmd = s.ctl.errCmd := rfl
@[simp] theorem resume_cfgValid (s : State) :
    (resume s).ctl.cfgValid = s.ctl.cfgValid := rfl
@[simp] theorem resume_irqEn (s : State) :
    (resume s).ctl.irqEn = s.ctl.irqEn := rfl
@[simp] theorem resume_irqPend (s : State) :
    (resume s).ctl.irqPend = s.ctl.irqPend := rfl
@[simp] theorem resume_cfg (s : State) :
    (resume s).cfg = s.cfg := rfl
@[simp] theorem resume_filt (s : State) :
    (resume s).filt = s.filt := rfl
@[simp] theorem resume_der (s : State) :
    (resume s).der = s.der := rfl
@[simp] theorem resume_poStep (s : State) :
    (resume s).sup.poStep = s.sup.poStep := rfl
@[simp] theorem resume_snap (s : State) :
    (resume s).snap = s.snap := rfl
@[simp] theorem resume_out (s : State) :
    (resume s).out = s.out := rfl
@[simp] theorem resume_mem (s : State) :
    (resume s).mem = s.mem := rfl
@[simp] theorem resume_ports (s : State) :
    (resume s).ports = s.ports := rfl
@[simp] theorem resume_rstCause (s : State) :
    (resume s).rstCause = s.rstCause := rfl
@[simp] theorem resume_pending (s : State) :
    (resume s).pending = s.pending := rfl
@[simp] theorem resume_bus (s : State) :
    (resume s).bus = s.bus := rfl
@[simp] theorem resume_unspecReads (s : State) :
    (resume s).unspecReads = s.unspecReads := rfl

/-! ### buttonWaitStep -/

@[simp] theorem buttonWaitStep_regs (s : State) :
    (buttonWaitStep s).regs = s.regs := by unfold buttonWaitStep; simp only; (repeat' split) <;> simp
@[simp] theorem buttonWaitStep_cmd (s : State) :
    (buttonWaitStep s).ctl.cmd = s.ctl.cmd := by unfold buttonWaitStep; simp only; (repeat' split) <;> simp
@[simp] theorem buttonWaitStep_status (s : State) :
    (buttonWaitStep s).ctl.status = s.ctl.status := by unfold buttonWaitStep; simp only; (repeat' split) <;> simp
@[simp] theorem buttonWaitStep_errCmd (s : State) :
    (buttonWaitStep s).ctl.errCmd = s.ctl.errCmd := by unfold buttonWaitStep; simp only; (repeat' split) <;> simp
@[simp] theorem buttonWaitStep_cfgValid (s : State) :
    (buttonWaitStep s).ctl.cfgValid = s.ctl.cfgValid := by unfold buttonWaitStep; simp only; (repeat' split) <;> simp
@[simp] theorem buttonWaitStep_irqEn (s : State) :
    (buttonWaitStep s).ctl.irqEn = s.ctl.irqEn := by unfold buttonWaitStep; simp only; (repeat' split) <;> simp
@[simp] theorem buttonWaitStep_cfg (s : State) :
    (buttonWaitStep s).cfg = s.cfg := by unfold buttonWaitStep; simp only; (repeat' split) <;> simp
@[simp] theorem buttonWaitStep_filt (s : State) :
    (buttonWaitStep s).filt = s.filt := by unfold buttonWaitStep; simp only; (repeat' split) <;> simp
@[simp] theorem buttonWaitStep_der (s : State) :
    (buttonWaitStep s).der = s.der := by unfold buttonWaitStep; simp only; (repeat' split) <;> simp
@[simp] theorem buttonWaitStep_snap (s : State) :
    (buttonWaitStep s).snap = s.snap := by unfold buttonWaitStep; simp only; (repeat' split) <;> simp
@[simp] theorem buttonWaitStep_tgtR (s : State) :
    (buttonWaitStep s).out.tgtR = s.out.tgtR := by unfold buttonWaitStep; simp only; (repeat' split) <;> simp
@[simp] theorem buttonWaitStep_tgtL (s : State) :
    (buttonWaitStep s).out.tgtL = s.out.tgtL := by unfold buttonWaitStep; simp only; (repeat' split) <;> simp
@[simp] theorem buttonWaitStep_ctrlOpen (s : State) :
    (buttonWaitStep s).out.ctrlOpen = s.out.ctrlOpen := by unfold buttonWaitStep; simp only; (repeat' split) <;> simp
@[simp] theorem buttonWaitStep_powerLatch (s : State) :
    (buttonWaitStep s).out.powerLatch = s.out.powerLatch := by unfold buttonWaitStep; simp only; (repeat' split) <;> simp
@[simp] theorem buttonWaitStep_ack (s : State) :
    (buttonWaitStep s).out.ack = s.out.ack := by unfold buttonWaitStep; simp only; (repeat' split) <;> simp
@[simp] theorem buttonWaitStep_rxRestart (s : State) :
    (buttonWaitStep s).out.rxRestart = s.out.rxRestart := by unfold buttonWaitStep; simp only; (repeat' split) <;> simp
@[simp] theorem buttonWaitStep_txStart (s : State) :
    (buttonWaitStep s).out.txStart = s.out.txStart := by unfold buttonWaitStep; simp only; (repeat' split) <;> simp
@[simp] theorem buttonWaitStep_buz (s : State) :
    (buttonWaitStep s).out.buz = s.out.buz := by unfold buttonWaitStep; simp only; (repeat' split) <;> simp
@[simp] theorem buttonWaitStep_mem (s : State) :
    (buttonWaitStep s).mem = s.mem := by unfold buttonWaitStep; simp only; (repeat' split) <;> simp
@[simp] theorem buttonWaitStep_ports (s : State) :
    (buttonWaitStep s).ports = s.ports := by unfold buttonWaitStep; simp only; (repeat' split) <;> simp
@[simp] theorem buttonWaitStep_rstCause (s : State) :
    (buttonWaitStep s).rstCause = s.rstCause := by unfold buttonWaitStep; simp only; (repeat' split) <;> simp
@[simp] theorem buttonWaitStep_pending (s : State) :
    (buttonWaitStep s).pending = s.pending := by unfold buttonWaitStep; simp only; (repeat' split) <;> simp
@[simp] theorem buttonWaitStep_bus (s : State) :
    (buttonWaitStep s).bus = s.bus := by unfold buttonWaitStep; simp only; (repeat' split) <;> simp
@[simp] theorem buttonWaitStep_unspecReads (s : State) :
    (buttonWaitStep s).unspecReads = s.unspecReads := by unfold buttonWaitStep; simp only; (repeat' split) <;> simp

/-! ### powerOffStep -/

@[simp] theorem powerOffStep_regs (s : State) :
    (powerOffStep s).regs = s.regs := by unfold powerOffStep; simp only; split <;> rfl
@[simp] theorem powerOffStep_cmd (s : State) :
    (powerOffStep s).ctl.cmd = s.ctl.cmd := by unfold powerOffStep; simp only; split <;> rfl
@[simp] theorem powerOffStep_status (s : State) :
    (powerOffStep s).ctl.status = s.ctl.status := by unfold powerOffStep; simp only; split <;> rfl
@[simp] theorem powerOffStep_errCmd (s : State) :
    (powerOffStep s).ctl.errCmd = s.ctl.errCmd := by unfold powerOffStep; simp only; split <;> rfl
@[simp] theorem powerOffStep_cfgValid (s : State) :
    (powerOffStep s).ctl.cfgValid = s.ctl.cfgValid := by unfold powerOffStep; simp only; split <;> rfl
@[simp] theorem powerOffStep_irqEn (s : State) :
    (powerOffStep s).ctl.irqEn = s.ctl.irqEn := by unfold powerOffStep; simp only; split <;> rfl
@[simp] theorem powerOffStep_rstFlags (s : State) :
    (powerOffStep s).ctl.rstFlags = s.ctl.rstFlags := by unfold powerOffStep; simp only; split <;> rfl
@[simp] theorem powerOffStep_cfg (s : State) :
    (powerOffStep s).cfg = s.cfg := by unfold powerOffStep; simp only; split <;> rfl
@[simp] theorem powerOffStep_filt (s : State) :
    (powerOffStep s).filt = s.filt := by unfold powerOffStep; simp only; split <;> rfl
@[simp] theorem powerOffStep_der (s : State) :
    (powerOffStep s).der = s.der := by unfold powerOffStep; simp only; split <;> rfl
@[simp] theorem powerOffStep_snap (s : State) :
    (powerOffStep s).snap = s.snap := by unfold powerOffStep; simp only; split <;> rfl
@[simp] theorem powerOffStep_tgtR (s : State) :
    (powerOffStep s).out.tgtR = s.out.tgtR := by unfold powerOffStep; simp only; split <;> rfl
@[simp] theorem powerOffStep_tgtL (s : State) :
    (powerOffStep s).out.tgtL = s.out.tgtL := by unfold powerOffStep; simp only; split <;> rfl
@[simp] theorem powerOffStep_ctrlOpen (s : State) :
    (powerOffStep s).out.ctrlOpen = s.out.ctrlOpen := by unfold powerOffStep; simp only; split <;> rfl
@[simp] theorem powerOffStep_ack (s : State) :
    (powerOffStep s).out.ack = s.out.ack := by unfold powerOffStep; simp only; split <;> rfl
@[simp] theorem powerOffStep_rxRestart (s : State) :
    (powerOffStep s).out.rxRestart = s.out.rxRestart := by unfold powerOffStep; simp only; split <;> rfl
@[simp] theorem powerOffStep_txStart (s : State) :
    (powerOffStep s).out.txStart = s.out.txStart := by unfold powerOffStep; simp only; split <;> rfl
@[simp] theorem powerOffStep_mem (s : State) :
    (powerOffStep s).mem = s.mem := by unfold powerOffStep; simp only; split <;> rfl
@[simp] theorem powerOffStep_ports (s : State) :
    (powerOffStep s).ports = s.ports := by unfold powerOffStep; simp only; split <;> rfl
@[simp] theorem powerOffStep_rstCause (s : State) :
    (powerOffStep s).rstCause = s.rstCause := by unfold powerOffStep; simp only; split <;> rfl
@[simp] theorem powerOffStep_pending (s : State) :
    (powerOffStep s).pending = s.pending := by unfold powerOffStep; simp only; split <;> rfl
@[simp] theorem powerOffStep_bus (s : State) :
    (powerOffStep s).bus = s.bus := by unfold powerOffStep; simp only; split <;> rfl
@[simp] theorem powerOffStep_unspecReads (s : State) :
    (powerOffStep s).unspecReads = s.unspecReads := by unfold powerOffStep; simp only; split <;> rfl

/-! ### pipeline -/

@[simp] theorem pipeline_regs (s : State) :
    (pipeline s).regs = s.regs := by simp [pipeline]
@[simp] theorem pipeline_cmd (s : State) :
    (pipeline s).ctl.cmd = s.ctl.cmd := by simp [pipeline]
@[simp] theorem pipeline_status (s : State) :
    (pipeline s).ctl.status = s.ctl.status := by simp [pipeline]
@[simp] theorem pipeline_errCmd (s : State) :
    (pipeline s).ctl.errCmd = s.ctl.errCmd := by simp [pipeline]
@[simp] theorem pipeline_cfgValid (s : State) :
    (pipeline s).ctl.cfgValid = s.ctl.cfgValid := by simp [pipeline]
@[simp] theorem pipeline_irqEn (s : State) :
    (pipeline s).ctl.irqEn = s.ctl.irqEn := by simp [pipeline]
@[simp] theorem pipeline_rstFlags (s : State) :
    (pipeline s).ctl.rstFlags = s.ctl.rstFlags := by simp [pipeline]
@[simp] theorem pipeline_cfg (s : State) :
    (pipeline s).cfg = s.cfg := by simp [pipeline]
@[simp] theorem pipeline_tickCnt (s : State) :
    (pipeline s).der.tickCnt = s.der.tickCnt := by simp [pipeline]
@[simp] theorem pipeline_snap (s : State) :
    (pipeline s).snap = s.snap := by simp [pipeline]
@[simp] theorem pipeline_powerLatch (s : State) :
    (pipeline s).out.powerLatch = s.out.powerLatch := by simp [pipeline]
@[simp] theorem pipeline_ports (s : State) :
    (pipeline s).ports = s.ports := by simp [pipeline]
@[simp] theorem pipeline_rstCause (s : State) :
    (pipeline s).rstCause = s.rstCause := by simp [pipeline]
@[simp] theorem pipeline_pending (s : State) :
    (pipeline s).pending = s.pending := by simp [pipeline]
@[simp] theorem pipeline_bus (s : State) :
    (pipeline s).bus = s.bus := by simp [pipeline]
@[simp] theorem pipeline_unspecReads (s : State) :
    (pipeline s).unspecReads = s.unspecReads := by simp [pipeline]

/-! ### dispatchTick -/

@[simp] theorem dispatchTick_regs (s : State) :
    (dispatchTick s).regs = s.regs := by unfold dispatchTick; (repeat' split) <;> simp
@[simp] theorem dispatchTick_cmd (s : State) :
    (dispatchTick s).ctl.cmd = s.ctl.cmd := by unfold dispatchTick; (repeat' split) <;> simp
@[simp] theorem dispatchTick_status (s : State) :
    (dispatchTick s).ctl.status = s.ctl.status := by unfold dispatchTick; (repeat' split) <;> simp
@[simp] theorem dispatchTick_errCmd (s : State) :
    (dispatchTick s).ctl.errCmd = s.ctl.errCmd := by unfold dispatchTick; (repeat' split) <;> simp
@[simp] theorem dispatchTick_cfgValid (s : State) :
    (dispatchTick s).ctl.cfgValid = s.ctl.cfgValid := by unfold dispatchTick; (repeat' split) <;> simp
@[simp] theorem dispatchTick_irqEn (s : State) :
    (dispatchTick s).ctl.irqEn = s.ctl.irqEn := by unfold dispatchTick; (repeat' split) <;> simp
@[simp] theorem dispatchTick_cfg (s : State) :
    (dispatchTick s).cfg = s.cfg := by unfold dispatchTick; (repeat' split) <;> simp
@[simp] theorem dispatchTick_tickCnt (s : State) :
    (dispatchTick s).der.tickCnt = s.der.tickCnt := by unfold dispatchTick; (repeat' split) <;> simp
@[simp] theorem dispatchTick_snap (s : State) :
    (dispatchTick s).snap = s.snap := by unfold dispatchTick; (repeat' split) <;> simp
@[simp] theorem dispatchTick_ports (s : State) :
    (dispatchTick s).ports = s.ports := by unfold dispatchTick; (repeat' split) <;> simp
@[simp] theorem dispatchTick_rstCause (s : State) :
    (dispatchTick s).rstCause = s.rstCause := by unfold dispatchTick; (repeat' split) <;> simp
@[simp] theorem dispatchTick_pending (s : State) :
    (dispatchTick s).pending = s.pending := by unfold dispatchTick; (repeat' split) <;> simp
@[simp] theorem dispatchTick_bus (s : State) :
    (dispatchTick s).bus = s.bus := by unfold dispatchTick; (repeat' split) <;> simp
@[simp] theorem dispatchTick_unspecReads (s : State) :
    (dispatchTick s).unspecReads = s.unspecReads := by unfold dispatchTick; (repeat' split) <;> simp

end Sys2Proof.Machine
end

