-- ==== Sys2Proof/Laws/Ops.lean ====
section
/-! SUPPORT. For each shared operation, once, everything it can do: what the provers cite instead of unfolding it. -/

namespace Sys2Proof.Machine

/-! ## Exact arithmetic and the ranges of R11 to R13 -/

theorem clamp_eq_max_min {v lo hi : Int} (h : lo ≤ hi) : clamp v lo hi = max lo (min hi v) := by
  unfold clamp
  split_ifs <;> omega

theorem sat16_eq_max_min (v : Int) : sat16 v = max (-32768) (min 32767 v) := clamp_eq_max_min (by omega)

theorem sat32_eq_max_min (v : Int) : sat32 v = max (-2147483648) (min 2147483647 v) := clamp_eq_max_min (by omega)

theorem sat16_range (v : Int) : -32768 ≤ sat16 v ∧ sat16 v ≤ 32767 := by
  rw [sat16_eq_max_min]
  omega

theorem sat32_range (v : Int) : -2147483648 ≤ sat32 v ∧ sat32 v ≤ 2147483647 := by
  rw [sat32_eq_max_min]
  omega

theorem sat16_of_range {v : Int} (h : -32768 ≤ v) (h' : v ≤ 32767) : sat16 v = v := by
  rw [sat16_eq_max_min]
  omega

theorem sat32_of_range {v : Int} (h : -2147483648 ≤ v) (h' : v ≤ 2147483647) : sat32 v = v := by
  rw [sat32_eq_max_min]
  omega

theorem lp16_range (x c st : Int) : -32768 ≤ lp16 x c st ∧ lp16 x c st ≤ 32767 := sat16_range _

theorem lp32_range (x c st : Int) : -2147483648 ≤ lp32 x c st ∧ lp32 x c st ≤ 2147483647 := sat32_range _

theorem rl16_range (x r st : Int) : -32768 ≤ rl16 x r st ∧ rl16 x r st ≤ 32767 := sat16_range _

theorem mixR_range {sp st gs gt lo hi : Int} (h : lo ≤ hi) :
    lo ≤ mixR sp st gs gt lo hi ∧ mixR sp st gs gt lo hi ≤ hi := by
  rw [mixR, clamp_eq_max_min h]
  omega

theorem mixL_range {sp st gs gt lo hi : Int} (h : lo ≤ hi) :
    lo ≤ mixL sp st gs gt lo hi ∧ mixL sp st gs gt lo hi ≤ hi := by
  rw [mixL, clamp_eq_max_min h]
  omega

theorem s16_range (p : Half) : -32768 ≤ s16 p ∧ s16 p ≤ 32767 := by
  have h := BitVec.le_toInt p
  have h' := BitVec.toInt_lt (x := p)
  simp only [s16]
  omega

theorem s32_range (p : Word) : -2147483648 ≤ s32 p ∧ s32 p ≤ 2147483647 := by
  have h := BitVec.le_toInt p
  have h' := BitVec.toInt_lt (x := p)
  simp only [s32]
  omega

theorem z16_range (p : Half) : 0 ≤ z16 p ∧ z16 p ≤ 65535 := by
  have := p.isLt
  simp only [z16]
  omega

/-- An int16 value survives being stored in a 16-bit register (R11). -/
theorem toInt_wrap16 {v : Int} (h : -32768 ≤ v) (h' : v ≤ 32767) : (wrap16 v).toInt = v := by
  simp only [wrap16, BitVec.toInt_ofInt]
  exact Int.bmod_eq_of_le (by omega) (by omega)

/-- An int32 value survives being stored in a 32-bit register (R11). -/
theorem toInt_wrap32 {v : Int} (h : -2147483648 ≤ v) (h' : v ≤ 2147483647) : (wrap32 v).toInt = v := by
  simp only [wrap32, BitVec.toInt_ofInt]
  exact Int.bmod_eq_of_le (by omega) (by omega)

@[simp] theorem toInt_signed (p : Half) : (signed p).toInt = p.toInt := by
  simp [signed, BitVec.toInt_signExtend]
  exact Int.bmod_eq_of_le (by have := BitVec.le_toInt p; omega) (by have := BitVec.toInt_lt (x := p); omega)

theorem toNat_unsigned {n : Nat} (h : n ≤ 32) (p : BitVec n) : (unsigned p).toNat = p.toNat := by
  simp [unsigned, Nat.mod_eq_of_lt (Nat.lt_of_lt_of_le p.isLt (Nat.pow_le_pow_right (by omega) h))]

theorem mag_nonneg (v : Int) : 0 ≤ mag v := by
  unfold mag
  split <;> omega

theorem mag_lt {v b : Int} : mag v < b ↔ -b < v ∧ v < b := by
  unfold mag
  split <;> omega

/-! ## Operand registers -/

@[simp] theorem getReg_setReg_same (i : Reg) (v : Word) (s : State) : getReg (setReg i v s) i = v := by
  simp [getReg, setReg]

theorem getReg_setReg (i j : Reg) (v : Word) (s : State) :
    getReg (setReg i v s) j = if i = j then v else getReg s j := by
  simp only [getReg, setReg, Fin.getElem_fin, Vector.getElem_set, Fin.ext_iff]

@[simp] theorem setReg_getReg (i : Reg) (s : State) : setReg i (getReg s i) s = s := by
  simp [setReg, getReg]

@[simp] theorem setReg_setReg (i : Reg) (v w : Word) (s : State) : setReg i v (setReg i w s) = setReg i v s := by
  simp [setReg]

/-! ## Events, errors and commands -/

/-- Raising an event sets its bit and loses none (R410). -/
theorem raiseEvent_irqPend (e : IrqEvent) (s : State) :
    (raiseEvent e s).ctl.irqPend = s.ctl.irqPend ||| eventBit e := rfl

theorem raiseEventIf_irqPend (c : Bool) (e : IrqEvent) (s : State) :
    (raiseEventIf c e s).ctl.irqPend = if c then s.ctl.irqPend ||| eventBit e else s.ctl.irqPend := by
  cases c <;> rfl

/-- Ending a command in an error leaves the record of R402 and nothing else. -/
theorem raiseError_eq (e : ErrorKind) (s : State) : raiseError e s = errorRecord (errorCode e) s := by
  unfold raiseError errorRecord raiseEvent statusAfterError errCmdAfterError eventBit
  split <;> simp_all

@[simp] theorem runCommand_halted {s : State} (h : s.sup.state = .halted) (body : Except ErrorKind State) :
    runCommand s body = .next (raiseError .halted s) := by simp [runCommand, h]

@[simp] theorem runCommand_ok {s : State} (h : s.sup.state ≠ .halted) (t : State) :
    runCommand s (.ok t) = .next t := by simp [runCommand, h]

@[simp] theorem runCommand_error {s : State} (h : s.sup.state ≠ .halted) (e : ErrorKind) :
    runCommand s (.error e) = .next (raiseError e s) := by simp [runCommand, h]

/-- Everything a command can answer: in HALTED the record of E_HALTED, else its body's state or the record of the body's
error. -/
theorem runCommand_cases {s t : State} {body : Except ErrorKind State} (h : runCommand s body = .next t) :
    (s.sup.state = .halted ∧ t = raiseError .halted s) ∨ (s.sup.state ≠ .halted ∧ body = .ok t) ∨
      (s.sup.state ≠ .halted ∧ ∃ e, body = .error e ∧ t = raiseError e s) := by
  unfold runCommand at h
  split at h
  · exact .inl ⟨‹_›, by simpa using h.symm⟩
  · cases body with
    | ok u => exact .inr (.inl ⟨‹_›, by simpa using h⟩)
    | error e => exact .inr (.inr ⟨‹_›, e, rfl, by simpa using h.symm⟩)

/-- A command always answers a next state. -/
theorem runCommand_next (s : State) (body : Except ErrorKind State) : ∃ t, runCommand s body = .next t := by
  unfold runCommand
  split
  · exact ⟨_, rfl⟩
  · cases body <;> exact ⟨_, rfl⟩

/-- Every command answers a next state. -/
theorem exec_next (i : Instr) (s : State) : ∃ t, exec i s = .next t := by
  cases i <;>
    simp only [exec, execNop, execLpf16, execLpf32, execRl16, execMixr, execMixl, execSat16, execXor16, execFrmchk,
      execLi, execLui, execMov, execLdr, execStr, execTick, execSwreset] <;>
    exact runCommand_next _ _

/-! ## The host window -/

/-- The register found at an offset is mapped there. -/
theorem offset_of_hostRegAt {off : Offset} {h : HostReg} (e : hostRegAt off = some h) : h.offset = off.toNat := by
  have := List.find?_some e
  simpa using this

/-- What a read of a register changes: only the model's count of free values, and that only for an unwritten must-write
register (R110, U1). -/
theorem afterRead_eq (r : HostReg) (s : State) :
    afterRead r s = s ∨
      (∃ m, r = .must m ∧ isWritten s m = false ∧ afterRead r s = { s with unspecReads := s.unspecReads + 1 }) := by
  cases r with
  | must m =>
    cases h : isWritten s m
    · exact .inr ⟨m, rfl, h, by simp [afterRead, h]⟩
    · exact .inl (by simp [afterRead, h])
  | _ => exact .inl rfl

/-- A write leaves the supervisor, the derived and output registers, the snapshot and everything outside the block. -/
theorem store_frame (r : HostReg) (v : Word) (s : State) :
    (store r v s).der = s.der ∧ (store r v s).sup = s.sup ∧ (store r v s).snap = s.snap ∧ (store r v s).out = s.out ∧
      (store r v s).ports = s.ports ∧ (store r v s).rstCause = s.rstCause ∧ (store r v s).pending = s.pending ∧
      (store r v s).bus = s.bus ∧ (store r v s).unspecReads = s.unspecReads := by
  cases r <;> simp [store, setReg]

/-- A write keeps the memory canonical. -/
theorem store_mem_wf (r : HostReg) (v : Word) {s : State} (h : s.mem.wf) : (store r v s).mem.wf := by
  cases r with
  | rxWord j => exact writeWord_wf _ _ h
  | _ => exact h

/-- A write keeps the memory inside the buffers. -/
theorem store_mem_inBuffers (r : HostReg) (v : Word) {s : State} (h : s.mem.inBuffers = true) :
    (store r v s).mem.inBuffers = true := by
  cases r with
  | rxWord j =>
    refine writeWord_inBuffers _ h ?_ ?_ ?_ ?_ <;> fin_cases j <;> decide
  | _ => exact h

/-! ## The step -/

/-- Everything a step can be: idle, or the oldest pending action. -/
theorem step_cases {s t : State} (h : step s = .next t) :
    (s.pending = [] ∧ t = s) ∨
      ∃ a rest, s.pending = a :: rest ∧ performAction a { s with pending := rest } = .next t := by
  unfold step nextAction at h
  cases hp : s.pending with
  | nil => exact .inl ⟨rfl, by simpa [hp] using h.symm⟩
  | cons a rest => exact .inr ⟨a, rest, rfl, by simpa [hp] using h⟩

/-- Everything an action of the outside world can do. -/
theorem performAction_cases {a : AgentAction} {s t : State} (h : performAction a s = .next t) :
    (∃ width off, a = .hostRead width off ∧ t = hostRead width off s) ∨
      (∃ w, a = .hostWrite 32 0x020#12 w ∧ issueCommand w s = .next t) ∨
      (∃ off r v, a = .hostWrite 32 off v ∧ hostRegAt off = some r ∧ isWritable r = true ∧
        t = { store r v s with bus := .done }) ∨
      (∃ width off v, a = .hostWrite width off v ∧ t = busError s) ∨
      (∃ i b, a = .dmaWrite i b ∧ t = dmaWrite i b s) ∨
      (∃ p c, a = .drivePorts p c ∧ t = { s with ports := p, rstCause := c }) ∨
      (a = .hardReset ∧ t = hardwareReset s) := by
  cases a with
  | hostRead width off => exact .inl ⟨width, off, rfl, by simpa [performAction] using h.symm⟩
  | hostWrite width off v =>
    right
    simp only [performAction, hostWrite, busTarget] at h
    by_cases hw : width = 32 ∧ isAligned off = true
    · rw [if_pos hw] at h
      obtain ⟨rfl, -⟩ := hw
      cases ho : hostRegAt off with
      | none =>
        rw [ho] at h
        exact .inr (.inr (.inl ⟨_, _, _, rfl, by simpa using h.symm⟩))
      | some r =>
        rw [ho] at h
        by_cases hr : r = .cmd
        · subst hr
          have : off = 0x020#12 := BitVec.eq_of_toNat_eq (by rw [← offset_of_hostRegAt ho]; rfl)
          subst this
          exact .inl ⟨v, rfl, h⟩
        · by_cases hwr : isWritable r = true
          · refine .inr (.inl ⟨off, r, v, rfl, ho, hwr, ?_⟩)
            cases r <;> simp_all
          · refine .inr (.inr (.inl ⟨_, _, _, rfl, ?_⟩))
            cases r <;> simp_all
    · rw [if_neg hw] at h
      exact .inr (.inr (.inl ⟨_, _, _, rfl, by simpa using h.symm⟩))
  | dmaWrite i b => exact .inr (.inr (.inr (.inr (.inl ⟨i, b, rfl, by simpa [performAction] using h.symm⟩))))
  | drivePorts p c =>
    exact .inr (.inr (.inr (.inr (.inr (.inl ⟨p, c, rfl, by simpa [performAction] using h.symm⟩)))))
  | hardReset => exact .inr (.inr (.inr (.inr (.inr (.inr ⟨rfl, by simpa [performAction] using h.symm⟩)))))

/-- A command word either runs as the command it decodes to, or leaves the record of E_ILLEGAL (of E_HALTED in HALTED). -/
theorem issueCommand_cases {w : Word} {s t : State} (h : issueCommand w s = .next t) :
    (∃ i, decode w = .ok i ∧ exec i (withCommand w s) = .next t) ∨
      (∃ e, decode w = .error e ∧ t = raiseError (illegalError s) (withCommand w s)) := by
  unfold issueCommand at h
  cases hd : decode w with
  | ok i => exact .inl ⟨i, rfl, by simpa [hd] using h⟩
  | error e => exact .inr ⟨e, rfl, by simpa [hd] using h.symm⟩

/-! ## TICK -/

/-- The checks of a TICK pass exactly in a state it accepts outside HALTED (R261). -/
theorem tickError_none_iff (s : State) :
    tickError s = none ↔
      (s.sup.state = .disabled ∨ s.sup.state = .enabled →
        configured s = true ∧ badTickConfig s = false ∧ 0 ≤ s16 s.cfg.rate) := by
  unfold tickError isPipeline
  split_ifs <;> simp_all

theorem badTickConfig_eq_false {s : State} :
    badTickConfig s = false ↔
      s16 s.cfg.cmdMin ≤ s16 s.cfg.cmdMax ∧ s.cfg.startSent ≠ s.cfg.consumedSent ∧ ctrlProfile s.cfg.ctrl ≠ 3#2 := by
  simp [badTickConfig, badRange, and_assoc]

theorem pipelineTick_tickError {s : State} (h : PipelineTick s) : tickError s = none := by
  rw [tickError_none_iff]
  intro _
  refine ⟨by simp [configured, h.written], badTickConfig_eq_false.2 ⟨h.range, h.sentinels, h.profile⟩, h.rate⟩

/-- A pipeline TICK runs the stages on the committed state (R262, R263). -/
theorem execTick_pipeline {s : State} (h : PipelineTick s) : execTick s = .next (pipeline (commitTick s)) := by
  have hne : s.sup.state ≠ .halted := by rcases h.state with h | h <;> simp [h]
  unfold execTick
  rw [pipelineTick_tickError h]
  rw [runCommand_ok hne]
  have hb : (commitTick s).snap.btn = false := h.released
  rcases h.state with hs | hs <;> simp [dispatchTick, hs, hb]

end Sys2Proof.Machine
end

