-- ==== Sys2Proof/Laws/PerInstr.lean ====
section
/-! SUPPORT. The bits of an encoded word, and statements about every instruction, one lemma per constructor. -/

namespace Sys2Proof

/-! ## The bits of the four formats (R131) -/

theorem getLsbD_formatR (op : BitVec 6) (rd ra rb rc : Reg) (i : Nat) :
    (formatR op rd ra rb rc).getLsbD i =
      if i < 14 then false else if i < 17 then rc.val.testBit (i - 14) else if i < 20 then rb.val.testBit (i - 17)
      else if i < 23 then ra.val.testBit (i - 20) else if i < 26 then rd.val.testBit (i - 23)
      else op.getLsbD (i - 26) := by
  unfold formatR
  simp only [BitVec.getLsbD_append, BitVec.getLsbD_zero]
  split_ifs <;> first | omega | rfl

theorem getLsbD_formatI (op : BitVec 6) (rd : Reg) (imm : Half) (i : Nat) :
    (formatI op rd imm).getLsbD i =
      if i < 16 then imm.getLsbD i else if i < 23 then false else if i < 26 then rd.val.testBit (i - 23)
      else op.getLsbD (i - 26) := by
  unfold formatI
  simp only [BitVec.getLsbD_append, BitVec.getLsbD_zero]
  split_ifs <;> first | omega | rfl

theorem getLsbD_formatM (op : BitVec 6) (r : Reg) (off : Offset) (i : Nat) :
    (formatM op r off).getLsbD i =
      if i < 12 then off.getLsbD i else if i < 23 then false else if i < 26 then r.val.testBit (i - 23)
      else op.getLsbD (i - 26) := by
  unfold formatM
  simp only [BitVec.getLsbD_append, BitVec.getLsbD_zero]
  split_ifs <;> first | omega | rfl

theorem getLsbD_formatN (op : BitVec 6) (i : Nat) :
    (formatN op).getLsbD i = if i < 26 then false else op.getLsbD (i - 26) := by
  unfold formatN
  simp only [BitVec.getLsbD_append, BitVec.getLsbD_zero]

/-! ## EncodeMatchesRow: an encoded instruction is a word of its own row of the opcode table (R134) -/

/-- What EncodeMatchesRow says of one instruction. -/
def Laws.EncodeMatchesRow.Statement (i : Instr) : Prop :=
  ∃ r ∈ opcodeTable, r.mnemonic = i.mnemonic ∧ encode i &&& r.mask = r.pattern

theorem Laws.EncodeMatchesRow.nop : Laws.EncodeMatchesRow.Statement .nop := by
  refine ⟨⟨"NOP", 0x00000000#32, 0xFFFFFFFF#32⟩, by simp [opcodeTable], rfl, BitVec.eq_of_getLsbD_eq fun i hi => ?_⟩
  rw [BitVec.getLsbD_and, encode, getLsbD_formatN]
  interval_cases i <;> simp

theorem Laws.EncodeMatchesRow.lpf16 (rd ra rb : Reg) : Laws.EncodeMatchesRow.Statement (.lpf16 rd ra rb) := by
  refine ⟨⟨"LPF16", 0x04000000#32, 0xFC01FFFF#32⟩, by simp [opcodeTable], rfl, BitVec.eq_of_getLsbD_eq fun i hi => ?_⟩
  rw [BitVec.getLsbD_and, encode, getLsbD_formatR]
  interval_cases i <;> simp

theorem Laws.EncodeMatchesRow.lpf32 (rd ra rb : Reg) : Laws.EncodeMatchesRow.Statement (.lpf32 rd ra rb) := by
  refine ⟨⟨"LPF32", 0x08000000#32, 0xFC01FFFF#32⟩, by simp [opcodeTable], rfl, BitVec.eq_of_getLsbD_eq fun i hi => ?_⟩
  rw [BitVec.getLsbD_and, encode, getLsbD_formatR]
  interval_cases i <;> simp

theorem Laws.EncodeMatchesRow.rl16 (rd ra rb : Reg) : Laws.EncodeMatchesRow.Statement (.rl16 rd ra rb) := by
  refine ⟨⟨"RL16", 0x0C000000#32, 0xFC01FFFF#32⟩, by simp [opcodeTable], rfl, BitVec.eq_of_getLsbD_eq fun i hi => ?_⟩
  rw [BitVec.getLsbD_and, encode, getLsbD_formatR]
  interval_cases i <;> simp

theorem Laws.EncodeMatchesRow.mixr (rd ra rb rc : Reg) : Laws.EncodeMatchesRow.Statement (.mixr rd ra rb rc) := by
  refine ⟨⟨"MIXR", 0x10000000#32, 0xFC003FFF#32⟩, by simp [opcodeTable], rfl, BitVec.eq_of_getLsbD_eq fun i hi => ?_⟩
  rw [BitVec.getLsbD_and, encode, getLsbD_formatR]
  interval_cases i <;> simp

theorem Laws.EncodeMatchesRow.mixl (rd ra rb rc : Reg) : Laws.EncodeMatchesRow.Statement (.mixl rd ra rb rc) := by
  refine ⟨⟨"MIXL", 0x14000000#32, 0xFC003FFF#32⟩, by simp [opcodeTable], rfl, BitVec.eq_of_getLsbD_eq fun i hi => ?_⟩
  rw [BitVec.getLsbD_and, encode, getLsbD_formatR]
  interval_cases i <;> simp

theorem Laws.EncodeMatchesRow.sat16 (rd ra : Reg) : Laws.EncodeMatchesRow.Statement (.sat16 rd ra) := by
  refine ⟨⟨"SAT16", 0x18000000#32, 0xFC0FFFFF#32⟩, by simp [opcodeTable], rfl, BitVec.eq_of_getLsbD_eq fun i hi => ?_⟩
  rw [BitVec.getLsbD_and, encode, getLsbD_formatR]
  interval_cases i <;> simp

theorem Laws.EncodeMatchesRow.xor16 (rd ra rb : Reg) : Laws.EncodeMatchesRow.Statement (.xor16 rd ra rb) := by
  refine ⟨⟨"XOR16", 0x1C000000#32, 0xFC01FFFF#32⟩, by simp [opcodeTable], rfl, BitVec.eq_of_getLsbD_eq fun i hi => ?_⟩
  rw [BitVec.getLsbD_and, encode, getLsbD_formatR]
  interval_cases i <;> simp

theorem Laws.EncodeMatchesRow.frmchk (rd : Reg) : Laws.EncodeMatchesRow.Statement (.frmchk rd) := by
  refine ⟨⟨"FRMCHK", 0x20000000#32, 0xFC7FFFFF#32⟩, by simp [opcodeTable], rfl, BitVec.eq_of_getLsbD_eq fun i hi => ?_⟩
  rw [BitVec.getLsbD_and, encode, getLsbD_formatR]
  interval_cases i <;> simp

theorem Laws.EncodeMatchesRow.li (rd : Reg) (imm : Half) : Laws.EncodeMatchesRow.Statement (.li rd imm) := by
  refine ⟨⟨"LI", 0x40000000#32, 0xFC7F0000#32⟩, by simp [opcodeTable], rfl, BitVec.eq_of_getLsbD_eq fun i hi => ?_⟩
  rw [BitVec.getLsbD_and, encode, getLsbD_formatI]
  interval_cases i <;> simp

theorem Laws.EncodeMatchesRow.lui (rd : Reg) (imm : Half) : Laws.EncodeMatchesRow.Statement (.lui rd imm) := by
  refine ⟨⟨"LUI", 0x44000000#32, 0xFC7F0000#32⟩, by simp [opcodeTable], rfl, BitVec.eq_of_getLsbD_eq fun i hi => ?_⟩
  rw [BitVec.getLsbD_and, encode, getLsbD_formatI]
  interval_cases i <;> simp

theorem Laws.EncodeMatchesRow.mov (rd ra : Reg) : Laws.EncodeMatchesRow.Statement (.mov rd ra) := by
  refine ⟨⟨"MOV", 0x48000000#32, 0xFC0FFFFF#32⟩, by simp [opcodeTable], rfl, BitVec.eq_of_getLsbD_eq fun i hi => ?_⟩
  rw [BitVec.getLsbD_and, encode, getLsbD_formatR]
  interval_cases i <;> simp

theorem Laws.EncodeMatchesRow.ldr (r : Reg) (off : Offset) : Laws.EncodeMatchesRow.Statement (.ldr r off) := by
  refine ⟨⟨"LDR", 0x4C000000#32, 0xFC7FF000#32⟩, by simp [opcodeTable], rfl, BitVec.eq_of_getLsbD_eq fun i hi => ?_⟩
  rw [BitVec.getLsbD_and, encode, getLsbD_formatM]
  interval_cases i <;> simp

theorem Laws.EncodeMatchesRow.str (r : Reg) (off : Offset) : Laws.EncodeMatchesRow.Statement (.str r off) := by
  refine ⟨⟨"STR", 0x50000000#32, 0xFC7FF000#32⟩, by simp [opcodeTable], rfl, BitVec.eq_of_getLsbD_eq fun i hi => ?_⟩
  rw [BitVec.getLsbD_and, encode, getLsbD_formatM]
  interval_cases i <;> simp

theorem Laws.EncodeMatchesRow.tick : Laws.EncodeMatchesRow.Statement .tick := by
  refine ⟨⟨"TICK", 0x80000000#32, 0xFFFFFFFF#32⟩, by simp [opcodeTable], rfl, BitVec.eq_of_getLsbD_eq fun i hi => ?_⟩
  rw [BitVec.getLsbD_and, encode, getLsbD_formatN]
  interval_cases i <;> simp

theorem Laws.EncodeMatchesRow.swreset : Laws.EncodeMatchesRow.Statement .swreset := by
  refine ⟨⟨"SWRESET", 0x84000000#32, 0xFFFFFFFF#32⟩, by simp [opcodeTable], rfl, BitVec.eq_of_getLsbD_eq fun i hi => ?_⟩
  rw [BitVec.getLsbD_and, encode, getLsbD_formatN]
  interval_cases i <;> simp

end Sys2Proof
end

