-- ==== Sys2Proof/Laws/Tick.lean ====
section
/-! SUPPORT. What each stage of TICK writes: one lemma per field written. What a stage leaves alone is in Laws/State.lean. -/

namespace Sys2Proof.Machine

/-! ## The checks (R261) -/

/-- What the error table of R400 asks of a TICK. -/
theorem tickAccepted_iff (s : State) :
    TickAccepted s ↔ s.sup.state ≠ .halted ∧
      (checksConfig s → s.ctl.cfgValid = 0x1FFFF#17 ∧ s.cfg.cmdMin.toInt ≤ s.cfg.cmdMax.toInt ∧
        s.cfg.startSent ≠ s.cfg.consumedSent ∧ s.cfg.ctrl.extractLsb' 3 2 ≠ 3#2 ∧ 0 ≤ s.cfg.rate.toInt) := by
  constructor
  · intro h
    refine ⟨fun e => h .halted (.inl e), fun hc => ?_⟩
    have h1 := h .cfgUnset
    have h2 := h .badCfg
    have h3 := h .rateNeg
    simp only [errorCause, hc, true_and, reduceCtorEq, false_and, exists_false, or_false, or_self, not_or, ne_eq,
      not_not, Int.not_lt] at h1 h2 h3
    exact ⟨h1, h2.1, h2.2.1, h2.2.2, h3⟩
  · rintro ⟨h0, h⟩ e he
    cases e <;>
      simp only [errorCause, true_and, reduceCtorEq, false_and, exists_false, or_false, or_self] at he
    · exact h0 he
    · exact he.2 (h he.1).1
    · obtain ⟨-, h1, h2, h3, -⟩ := h he.1
      rcases he.2 with he | he | he
      · omega
      · exact h2 he
      · exact h3 he
    · have := (h he.1).2.2.2.2
      omega

/-- A pipeline TICK is an accepted one. -/
theorem PipelineTick.accepted {s : State} (h : PipelineTick s) : TickAccepted s :=
  (tickAccepted_iff s).2
    ⟨by rcases h.state with h | h <;> simp [h], fun _ => ⟨h.written, h.range, h.sentinels, h.profile, h.rate⟩⟩

/-! ## The commit (R262) -/

@[simp] theorem commitTick_snap (s : State) : (commitTick s).snap = s.ports := by simp only [commitTick]
@[simp] theorem commitTick_tickCnt (s : State) : (commitTick s).der.tickCnt = s.der.tickCnt + 1#32 := by
  simp only [commitTick]
@[simp] theorem commitTick_ack (s : State) : (commitTick s).out.ack = false := by simp only [commitTick]
@[simp] theorem commitTick_rxRestart (s : State) : (commitTick s).out.rxRestart = false := by simp only [commitTick]
@[simp] theorem commitTick_txStart (s : State) : (commitTick s).out.txStart = false := by simp only [commitTick]

/-! ## S1 (R265, R352, R353) -/

theorem acceptFrame_cmd1 (s : State) : (acceptFrame s).der.cmd1 = toCommand s.cfg (frameSteer s) := by
  simp [acceptFrame]
theorem acceptFrame_cmd2 (s : State) : (acceptFrame s).der.cmd2 = toCommand s.cfg (frameSpeed s) := by
  simp [acceptFrame]
theorem acceptFrame_serCnt (s : State) : (acceptFrame s).der.serCnt = 0#16 := by simp [acceptFrame]
theorem acceptFrame_linkTimeout (s : State) : (acceptFrame s).der.linkTimeout = false := by simp [acceptFrame]
theorem acceptFrame_mem (s : State) : (acceptFrame s).mem = writeHalf s.mem rxBase s.cfg.consumedSent := by
  simp [acceptFrame]
theorem acceptFrame_irqPend (s : State) :
    (acceptFrame s).ctl.irqPend =
      (if s.der.linkTimeout = true then s.ctl.irqPend ||| 0x004#11 else s.ctl.irqPend) ||| 0x400#11 := by
  simp only [acceptFrame, raiseEvent_irqPend, raiseEventIf_irqPend, eventBit]

theorem requestResync_rxRestart (s : State) : (requestResync s).out.rxRestart = true := by simp [requestResync]
theorem requestResync_irqPend (s : State) : (requestResync s).ctl.irqPend = s.ctl.irqPend ||| 0x100#11 := by
  simp only [requestResync, raiseEvent_irqPend, eventBit]

theorem countMissing_serCnt (s : State) : (countMissing s).der.serCnt = serCntNext s.der.serCnt := by
  simp [countMissing]
theorem countMissing_linkTimeout (s : State) :
    (countMissing s).der.linkTimeout =
      (s.der.linkTimeout || decide (s.cfg.serTimeout.toNat ≤ (serCntNext s.der.serCnt).toNat)) := by
  simp only [countMissing, raiseEventIf_der]
  cases s.der.linkTimeout <;> simp
theorem countMissing_irqPend (s : State) :
    (countMissing s).ctl.irqPend =
      if s.der.linkTimeout = false ∧ s.cfg.serTimeout.toNat ≤ (serCntNext s.der.serCnt).toNat then
        s.ctl.irqPend ||| 0x002#11 else s.ctl.irqPend := by
  simp only [countMissing, raiseEventIf_irqPend, eventBit]
  cases s.der.linkTimeout <;> simp

/-- The saturating count of R353. -/
theorem serCntNext_toNat (c : Half) : (serCntNext c).toNat = min (c.toNat + 1) 65535 := by
  unfold serCntNext
  split
  · subst_vars; rfl
  · have h : c.toNat ≠ 65535 := fun e => ‹¬_› (BitVec.eq_of_toNat_eq e)
    have := c.isLt
    simp only [BitVec.toNat_add, BitVec.toNat_ofNat]
    omega

theorem applyTimeout_cmd1 (c : Bool) (s : State) :
    (applyTimeout c s).der.cmd1 = if c then 0#16 else s.der.cmd1 := by simp only [applyTimeout]
theorem applyTimeout_cmd2 (c : Bool) (s : State) :
    (applyTimeout c s).der.cmd2 = if c then 0#16 else s.der.cmd2 := by simp only [applyTimeout]
theorem applyTimeout_ctrlOpen (c : Bool) (s : State) : (applyTimeout c s).out.ctrlOpen = c := by
  simp only [applyTimeout]

/-- The command range keeps a clamped value inside int16 (R265). -/
theorem toCommand_toInt (c : ConfigRegs) (v : Half) (h : s16 c.cmdMin ≤ s16 c.cmdMax) :
    (toCommand c v).toInt = max (s16 c.cmdMin) (min (s16 c.cmdMax) (s16 v)) := by
  have h1 := s16_range c.cmdMin
  have h2 := s16_range c.cmdMax
  rw [toCommand, clamp_eq_max_min h, toInt_wrap16 (by omega) (by omega)]

/-! ## S2 (R270) -/

theorem condition_rlSteer (s : State) :
    (condition s).filt.rlSteer.toInt = rl16 (s16 s.der.cmd1) (s16 s.cfg.rate) (s16 s.filt.rlSteer) := by
  simp only [condition]
  exact toInt_wrap16 (rl16_range ..).1 (rl16_range ..).2
theorem condition_rlSpeed (s : State) :
    (condition s).filt.rlSpeed.toInt = rl16 (s16 s.der.cmd2) (s16 s.cfg.rate) (s16 s.filt.rlSpeed) := by
  simp only [condition]
  exact toInt_wrap16 (rl16_range ..).1 (rl16_range ..).2
theorem condition_lpfSteer (s : State) :
    (condition s).filt.lpfSteer.toInt =
      lp16 (condition s).filt.rlSteer.toInt (z16 s.cfg.filtCoef) (s16 s.filt.lpfSteer) := by
  rw [condition_rlSteer]
  simp only [condition]
  exact toInt_wrap16 (lp16_range ..).1 (lp16_range ..).2
theorem condition_lpfSpeed (s : State) :
    (condition s).filt.lpfSpeed.toInt =
      lp16 (condition s).filt.rlSpeed.toInt (z16 (if s.snap.brake then s.cfg.filtCoefBrake else s.cfg.filtCoef))
        (s16 s.filt.lpfSpeed) := by
  rw [condition_rlSpeed]
  simp only [condition]
  exact toInt_wrap16 (lp16_range ..).1 (lp16_range ..).2
theorem condition_steerCmd (s : State) :
    (condition s).der.steerCmd.toInt = asr (condition s).filt.lpfSteer.toInt 4 := by
  rw [condition_lpfSteer, condition_rlSteer]
  simp only [condition]
  have := lp16_range (rl16 (s16 s.der.cmd1) (s16 s.cfg.rate) (s16 s.filt.rlSteer)) (z16 s.cfg.filtCoef)
    (s16 s.filt.lpfSteer)
  exact toInt_wrap16 (by unfold asr; omega) (by unfold asr; omega)
theorem condition_speedCmd (s : State) :
    (condition s).der.speedCmd.toInt = asr (condition s).filt.lpfSpeed.toInt 4 := by
  rw [condition_lpfSpeed, condition_rlSpeed]
  simp only [condition]
  have := lp16_range (rl16 (s16 s.der.cmd2) (s16 s.cfg.rate) (s16 s.filt.rlSpeed))
    (z16 (if s.snap.brake then s.cfg.filtCoefBrake else s.cfg.filtCoef)) (s16 s.filt.lpfSpeed)
  exact toInt_wrap16 (by unfold asr; omega) (by unfold asr; omega)

/-! ## S3 to S5 (R302, R275, R277) -/

theorem enableTransition_state (s : State) :
    (enableTransition s).sup.state = if enables s = true then .enabled else s.sup.state := by
  unfold enableTransition
  split <;> rfl

theorem gate_tgtR (mR mL : Int) (c : Bool) (s : State) :
    (gate mR mL c s).out.tgtR = if gateOpen mR mL c s then wrap16 mR else s.out.tgtR := by simp only [gate]
theorem gate_tgtL (mR mL : Int) (c : Bool) (s : State) :
    (gate mR mL c s).out.tgtL = if gateOpen mR mL c s then wrap16 mL else s.out.tgtL := by simp only [gate]
theorem gate_mixR (mR mL : Int) (c : Bool) (s : State) : (gate mR mL c s).der.mixR = wrap16 mR := by simp only [gate]
theorem gate_mixL (mR mL : Int) (c : Bool) (s : State) : (gate mR mL c s).der.mixL = wrap16 mL := by simp only [gate]

/-! ## S6 (R304 to R308) -/

theorem monitorTemp_tempFilt (s : State) :
    (monitorTemp s).filt.tempFilt.toInt =
      lp32 (s16 s.snap.tempRaw) (z16 s.cfg.tempCoef) (s32 s.filt.tempFilt) := by
  simp only [monitorTemp]
  exact toInt_wrap32 (lp32_range ..).1 (lp32_range ..).2
theorem monitorTemp_tempDegc (s : State) :
    (monitorTemp s).der.tempDegc.toInt =
      sat16 (asr ((monitorTemp s).filt.tempFilt.toInt * s32 s.cfg.tcalMul) 16 + s16 s.cfg.tcalAdd) := by
  rw [monitorTemp_tempFilt]
  simp only [monitorTemp]
  exact toInt_wrap16 (sat16_range _).1 (sat16_range _).2

theorem emergencyDisable_state (s : State) :
    (emergencyDisable s).sup.state =
      if s.sup.state = .enabled ∧ emergency s = true then .disabled else s.sup.state := by
  unfold emergencyDisable
  split <;> simp_all

theorem emergencyDisable_irqPend (s : State) :
    (emergencyDisable s).ctl.irqPend =
      if s.sup.state = .enabled ∧ emergency s = true then s.ctl.irqPend ||| 0x010#11 else s.ctl.irqPend := by
  unfold emergencyDisable
  split <;> simp_all [raiseEvent_irqPend, eventBit]

theorem selectTone_buz (c : Bool) (s : State) :
    (selectTone c s).out.buz = toneOf (BitVec.ofNat 3 (toneSelect c s).val) (toneEntry s.cfg (toneSelect c s)) := by
  simp only [selectTone]

/-! ## S7 and S8 (R312, R314, R360, R361) -/

theorem countInactivity_inactCnt (s : State) : (countInactivity s).der.inactCnt = inactCntNext s := by
  simp only [countInactivity]

theorem enterPowerOff_state (s : State) : (enterPowerOff s).sup.state = .poweroff := by simp [enterPowerOff]
theorem enterPowerOff_poStep (s : State) : (enterPowerOff s).sup.poStep = 0#8 := by simp [enterPowerOff]
theorem enterPowerOff_irqPend (s : State) : (enterPowerOff s).ctl.irqPend = s.ctl.irqPend ||| 0x040#11 := by
  simp only [enterPowerOff, raiseEvent_irqPend, eventBit]

/-- The cadence of R360 and R421. -/
theorem fbDivNext_toNat (d : BitVec 8) : (fbDivNext d).toNat = (d.toNat + 1) % 20 := by
  simp only [fbDivNext, Config.feedbackDivisor, BitVec.toNat_ofNat]
  omega

theorem feedback_fbDiv (s : State) : (feedback s).der.fbDiv = fbDivNext s.der.fbDiv := by
  simp only [feedback]
  split <;> simp [buildFrame]

/-- The field k of the frame just built, as a reader of TXBUF sees it (R361). -/
theorem buildFrame_field {s : State} (h : s.mem.wf) (k : Nat)
    (hk : k < (feedbackFields s ++ [xorFields (feedbackFields s)]).length) :
    readHalf (buildFrame s).mem (txBase + 2 * k) = (feedbackFields s ++ [xorFields (feedbackFields s)])[k] := by
  have e := readHalf_writeFields _ h txBase k hk
  simp only [buildFrame]
  exact e

/-! ## End of tick (R301, R303) -/

theorem endOfTick_enable (c : Bool) (s : State) :
    (endOfTick c s).out.enable = decide (s.sup.state = .enabled) := by
  unfold endOfTick driveEnable
  split <;> rfl

theorem endOfTick_ack (c : Bool) (s : State) :
    (endOfTick c s).out.ack = if c = true ∧ s.sup.state = .enabled then true else s.out.ack := by
  unfold endOfTick driveEnable
  split <;> simp_all

theorem endOfTick_irqPend (c : Bool) (s : State) :
    (endOfTick c s).ctl.irqPend =
      if c = true ∧ s.sup.state = .enabled then s.ctl.irqPend ||| 0x008#11 else s.ctl.irqPend := by
  unfold endOfTick driveEnable
  split <;> simp_all [raiseEvent_irqPend, eventBit]

end Sys2Proof.Machine
end

