-- ==== Sys2Proof/Tests/Slice0.lean ====
section
/-! SUPPORT. Tests: the checks of the syntax, decoding of words written out from the spec, one or two steps per command
with the values of 95_test_vectors.md, and for each statement with hypotheses a state and operands that meet them. -/

namespace Sys2Proof.Tests

open Sys2Proof.Machine

/-! ## States -/

/-- A view of the state after an outcome; none where it is no next state. -/
def after {α : Type} (o : Outcome) (f : State → α) : Option α :=
  match o with
  | .next t => some (f t)
  | .fault _ => none
  | .refused _ => none

/-- The reset state with values in operand registers R1 to R4. -/
def withRegs (r1 r2 r3 r4 : Word) : State :=
  setReg 1 r1 (setReg 2 r2 (setReg 3 r3 (setReg 4 r4 State.reset)))

/-- The test configuration TC of 95_test_vectors.md section 1. -/
def tcConfig : ConfigRegs :=
  { ConfigRegs.reset with
    rate := 480, filtCoef := 6553, filtCoefBrake := 3276, tempCoef := 655, speedGainNormal := 16384,
    speedGainTurbo := 24576, steerGain := 8192, tempWarn := 600, tempOff := 650, batSlow := 3500, batFast := 3400,
    batDead := 3300, inactTicks := 100, startSent := 0xABCD, consumedSent := 0xFFFF, tcalMul := 65536, tcalAdd := 0 }

/-- The block with TC written, a value of CTRL, input ports at zero but bat_in = 3700. -/
def tc (ctrl : BitVec 5) : State :=
  { State.reset with
    ctl := { State.reset.ctl with cfgValid := 0x1FFFF },
    cfg := { tcConfig with ctrl := ctrl },
    ports := { PortSample.zero with bat := 3700 } }

/-- The same with two words in RXBUF. -/
def tcFrame (ctrl : BitVec 5) (w0 w1 : Word) : State :=
  { tc ctrl with mem := writeWord (writeWord [] rxBase w0) (rxBase + 4) w1 }

/-- The same in a supervisor state. -/
def tcIn (st : SupState) : State := { tc 6 with sup := { state := st, poStep := 0 } }

/-- The same with a configuration. -/
def tcWith (c : ConfigRegs) : State := { tc 6 with cfg := c }

/-- A state with one action pending. -/
def about (a : AgentAction) (s : State) : State := { s with pending := [a] }

/-! ## The checks of the syntax (R138, R139) -/

theorem test_register_R7_ok : (Asm.mov 7 0).wellFormed = true := by decide
theorem test_register_R8_refused : (Asm.mov 8 0).wellFormed = false := by decide
theorem test_fourth_register_refused : (Asm.mixr 0 0 0 8).wellFormed = false := by decide
theorem test_immediate_bounds_ok : (Asm.li 0 (-32768)).wellFormed = true ∧ (Asm.li 0 65535).wellFormed = true := by decide
theorem test_immediate_65536_refused : (Asm.li 0 65536).wellFormed = false := by decide
theorem test_immediate_below_refused : (Asm.lui 0 (-32769)).wellFormed = false := by decide
theorem test_offset_0x1000_refused : (Asm.ldr 0 0x1000).wellFormed = false := by decide
theorem test_str_offset_refused : (Asm.str 0 0x1000).wellFormed = false ∧ (Asm.str 0 0xFFF).wellFormed = true := by decide
theorem test_value_out_of_range_refused : (Asm.li32 0 4294967296).wellFormed = false := by decide
theorem test_wcfg_value_refused : (Asm.wcfg .cmdMin (-2147483649)).wellFormed = false := by decide
theorem test_ill_formed_line_has_no_words : Asm.assemble (.clr 8) = none := by decide

/-- R139: LI32 in two commands. -/
theorem test_assemble_li32 : Asm.assemble (.li32 1 2147483647) = some [0x4080FFFF, 0x44807FFF] := by decide

/-! ## Decoding of words written out from 30_encoding.md and the vectors of section 3 -/

theorem test_decode_nop : decode 0x00000000 = .ok .nop := by decide
theorem test_decode_lpf16 : decode 0x04A60000 = .ok (.lpf16 1 2 3) := by decide
/-- 000010 111 110 101 then seventeen zeros. -/
theorem test_decode_lpf32 : decode 0b00001011111010100000000000000000 = .ok (.lpf32 7 6 5) := by decide
theorem test_decode_rl16 : decode 0x0CA60000 = .ok (.rl16 1 2 3) := by decide
theorem test_decode_mixr : decode 0x10A70000 = .ok (.mixr 1 2 3 4) := by decide
/-- 000101 101 010 011 100 then fourteen zeros. -/
theorem test_decode_mixl : decode 0b00010110101001110000000000000000 = .ok (.mixl 5 2 3 4) := by decide
/-- 000110 111 110 then twenty zeros. -/
theorem test_decode_sat16 : decode 0b00011011111000000000000000000000 = .ok (.sat16 7 6) := by decide
theorem test_decode_xor16 : decode 0x1C980000 = .ok (.xor16 1 1 4) := by decide
theorem test_decode_frmchk : decode 0x21000000 = .ok (.frmchk 2) := by decide
theorem test_decode_li : decode 0x41801999 = .ok (.li 3 6553) := by decide
theorem test_decode_lui : decode 0x46002000 = .ok (.lui 4 0x2000) := by decide
theorem test_decode_mov : decode 0x48A00000 = .ok (.mov 1 2) := by decide
theorem test_decode_ldr : decode 0x4C800088 = .ok (.ldr 1 0x088) := by decide
theorem test_decode_str : decode 0x53800044 = .ok (.str 7 0x044) := by decide
theorem test_decode_tick : decode 0x80000000 = .ok .tick := by decide
theorem test_decode_swreset : decode 0x84000000 = .ok .swreset := by decide

/-- The illegal words of section 3.7. -/
theorem test_decode_reserved_bits :
    decode 0x00000001 = .error .reservedBits ∧
    decode 0x04A60001 = .error .reservedBits ∧
    decode 0x1C004000 = .error .reservedBits ∧
    decode 0x10000001 = .error .reservedBits ∧
    decode 0x18220000 = .error .reservedBits ∧
    decode 0x48A20000 = .error .reservedBits := by decide
theorem test_decode_reserved_bits_too :
    decode 0x20800001 = .error .reservedBits ∧
    decode 0x80000001 = .error .reservedBits ∧
    decode 0x84000001 = .error .reservedBits ∧
    decode 0x4C801000 = .error .reservedBits ∧
    decode 0x40010005 = .error .reservedBits := by decide
theorem test_decode_undefined_opcode :
    decode 0x24000000 = .error .undefinedOpcode ∧
    decode 0x3C000000 = .error .undefinedOpcode ∧
    decode 0x54000000 = .error .undefinedOpcode ∧
    decode 0x88000000 = .error .undefinedOpcode ∧
    decode 0xFC000000 = .error .undefinedOpcode := by decide

/-! ## One step per command -/

/-- Section 3.6: a NOP changes nothing but CMD; it clears no record. -/
theorem test_nop : after (step ((tc 6).withFetchWord 32 0)) (fun t => (t.ctl, t.der, t.out)) =
    some ((tc 6).ctl, (tc 6).der, (tc 6).out) := by decide

/-- Section 3.1, with upper operand bits that are ignored. -/
theorem test_lpf16 : after (exec (.lpf16 1 2 3) (withRegs 0xABCD0000 0x12343E80 0xFFFF1999 0)) (getReg · 1) =
    some 0x0000063F := by decide
/-- Section 3.1: x = −16, c = 6553, s = 0 gives −2. -/
theorem test_lpf16_floor : after (exec (.lpf16 1 2 3) (withRegs 0 0xFFF0 6553 0)) (getReg · 1) = some 0xFFFFFFFE := by
  decide

/-- Section 3.2: the largest output, 2147450879. -/
theorem test_lpf32 : after (exec (.lpf32 1 2 3) (withRegs 0x7FFFFFFF 0x7FFFFFFF 0xFFFF 0)) (getReg · 1) =
    some (BitVec.ofInt 32 2147450879) := by decide
/-- Section 3.2: 2147483647, 1, −2147483648 gives −2147385345. -/
theorem test_lpf32_low : after (exec (.lpf32 1 2 3) (withRegs 0x80000000 0x7FFFFFFF 1 0)) (getReg · 1) =
    some (BitVec.ofInt 32 (-2147385345)) := by decide

/-- Section 3.3: −2049, 32767, 0 gives −32767. -/
theorem test_rl16 : after (exec (.rl16 1 2 3) (withRegs 0 (BitVec.ofInt 32 (-2049)) 32767 0)) (getReg · 1) =
    some (BitVec.ofInt 32 (-32767)) := by decide
/-- Section 3.3: a negative rate raises E_RATE_NEG and leaves R1. -/
theorem test_rl16_negative_rate :
    after (step ((withRegs 5 100 0x0000FFFF 0).withFetchWord 32 0x0CA60000))
      (fun t => (getReg t 1, statusWord t.ctl.status, t.ctl.errCmd, t.ctl.irqPend)) =
    some (5, 0x81, 0x0CA60000, 1) := by decide

/-- Section 3.4, first row: mixR = 950. -/
theorem test_mixr : after (exec (.mixr 1 2 3 4) (withRegs 0 16000 1600 0x20004000)) (getReg · 1) = some 950 := by decide
/-- Section 3.4: CMD_MIN = 5, CMD_MAX = 4 raises E_BADCFG. -/
theorem test_mixr_empty_range :
    after (exec (.mixr 1 2 3 4) { withRegs 9 0 0 0 with cfg := { ConfigRegs.reset with cmdMin := 5, cmdMax := 4 } })
      (fun t => (getReg t 1, statusWord t.ctl.status)) = some (9, 0x71) := by decide
/-- Section 3.4, first row: mixL = 1000, clamped from 1050. -/
theorem test_mixl : after (exec (.mixl 1 2 3 4) (withRegs 0 16000 1600 0x20004000)) (getReg · 1) = some 1000 := by decide
/-- Section 3.4: 800, −320 gives mixL = 40. -/
theorem test_mixl_sign : after (exec (.mixl 1 2 3 4) (withRegs 0 800 (BitVec.ofInt 32 (-320)) 0x20004000)) (getReg · 1) =
    some 40 := by decide

/-- Section 3.5. -/
theorem test_sat16_high : after (exec (.sat16 1 2) (withRegs 0 0x00008000 0 0)) (getReg · 1) = some 0x00007FFF := by decide
theorem test_sat16_low : after (exec (.sat16 1 2) (withRegs 0 0xFFFF7FFF 0 0)) (getReg · 1) = some 0xFFFF8000 := by decide

/-- Section 3.10, S2. -/
theorem test_xor16 : after (exec (.xor16 1 2 3) (withRegs 0xFFFFFFFF 0xABCD 0x0064 0)) (getReg · 1) = some 0x0000ABA9 := by
  decide

/-- Section 3.10, S2: ACCEPT and BADSUM. -/
theorem test_frmchk :
    after (exec (.frmchk 2) (tcFrame 7 0x0064ABCD 0xA84103E8)) (fun t => (getReg t 2, readWord t.mem 0x200)) =
      some (0, 0x0064ABCD) ∧
    after (exec (.frmchk 2) (tcFrame 7 0x0064ABCD 0x123403E8)) (getReg · 2) = some 2 := by decide
/-- Section 3.10, S2: STALE, RESYNC, and E_CFG_UNSET before configuration. -/
theorem test_frmchk_other :
    after (exec (.frmchk 2) (tcFrame 7 0x0064FFFF 0)) (getReg · 2) = some 1 ∧
    after (exec (.frmchk 2) (tcFrame 7 0x00641234 0)) (getReg · 2) = some 3 ∧
    after (exec (.frmchk 1) State.reset) (fun t => statusWord t.ctl.status) = some 0x61 := by decide

/-- Section 3.6. -/
theorem test_li_sign : after (exec (.li 6 0x8000) State.reset) (getReg · 6) = some 0xFFFF8000 := by decide
theorem test_lui : after (exec (.lui 4 0x2000) (withRegs 0 0 0 0x4000)) (getReg · 4) = some 0x20004000 := by decide
theorem test_mov : after (exec (.mov 1 2) (withRegs 0 0x12345678 0 0)) (fun t => (getReg t 1, getReg t 2)) =
    some (0x12345678, 0x12345678) := by decide

/-- Section 3.6: ID, CMD_MIN widened, and CMD, which holds the LDR's own word. -/
theorem test_ldr :
    after (step (State.reset.withFetchWord 32 0x4C80003C)) (getReg · 1) = some 0x48534201 ∧
    after (step (State.reset.withFetchWord 32 0x4C800060)) (getReg · 1) = some 0xFFFFFC18 ∧
    after (step (State.reset.withFetchWord 32 0x4C800020)) (getReg · 1) = some 0x4C800020 := by decide
/-- Section 3.6: alignment is checked before mapping. -/
theorem test_ldr_errors :
    after (step (State.reset.withFetchWord 32 0x4C8000B9)) (fun t => statusWord t.ctl.status) = some 0x31 ∧
    after (step (State.reset.withFetchWord 32 0x4C8000B8)) (fun t => statusWord t.ctl.status) = some 0x41 ∧
    after (step (State.reset.withFetchWord 32 0x4C801000)) (fun t => statusWord t.ctl.status) = some 0x11 := by decide

/-- Section 3.6: RATE and its CFGVALID bit, and the bytes CD AB 64 00. -/
theorem test_str :
    after (exec (.str 7 0x044) (setReg 7 480 State.reset)) (fun t => (t.cfg.rate, t.ctl.cfgValid)) = some (480, 1) ∧
    after (exec (.str 1 0x200) (withRegs 0x0064ABCD 0 0 0)) (fun t => (List.range 4).map (rxByte t)) =
      some [0xCD, 0xAB, 0x64, 0x00] := by decide
/-- Section 3.6: E_ALIGN, E_RO, and E_RO of CMD. -/
theorem test_str_errors :
    after (step (State.reset.withFetchWord 32 0x50800116)) (fun t => (statusWord t.ctl.status, t.ctl.errCmd)) =
      some (0x31, 0x50800116) ∧
    after (step (State.reset.withFetchWord 32 0x50800114)) (fun t => statusWord t.ctl.status) = some 0x51 ∧
    after (step (State.reset.withFetchWord 32 0x50800020)) (fun t => statusWord t.ctl.status) = some 0x51 := by decide

/-- Section 3.8, V4: the re-clamp, both axes, the mixer and the targets. -/
theorem test_tick_conditions :
    after (exec .tick { tc 6 with ports := { PortSample.zero with bat := 3700, steer := 5000, speed := -5000 } })
      (fun t => (t.der.cmd1, t.der.cmd2, t.filt.rlSteer, t.filt.lpfSpeed, t.out.tgtR, t.der.mixL)) =
    some (1000, -1000, 480, -48, -5, -2) := by decide
/-- Section 3.10, S3: an accepted frame, consumed. -/
theorem test_tick_accepts_frame :
    after (exec .tick (tcFrame 7 0x0064ABCD 0xA84103E8))
      (fun t => (t.der.cmd1, t.der.cmd2, readWord t.mem 0x200, t.ctl.irqPend, outFlagsWord t.out, t.out.tgtL)) =
    some (100, 1000, 0x0064FFFF, 0x408, 0xD, 4) := by decide

/-- Section 3.9, U5 and U6: RSTFLAGS = 5 after a power-on reset and SWRESET; E_HALTED in POWEROFF. -/
theorem test_swreset : after (exec .swreset (tc 6)) (fun t => (t.ctl.rstFlags, t.ctl.cfgValid, t.cfg.ctrl)) =
    some (5, 0, 7) := by decide
theorem test_swreset_poweroff :
    after (exec .swreset (tcIn .poweroff)) (fun t => (statusWord t.ctl.status, t.ctl.rstFlags, t.sup.state)) =
    some (0x21, 1, .poweroff) := by decide

/-- R34, R55, R48 and R104 by hand: STATUS with ERRCODE 6, SUP in POWEROFF at step 5, and the byte order of RXBUF. -/
theorem test_host_value :
    hostValue { tcIn .poweroff with sup := { state := .poweroff, poStep := 5 } } .sup = 0x503 ∧
    hostValue (tcFrame 7 0x0064ABCD 0xA84103E8) (.rxWord 1) = 0xA84103E8 ∧
    hostValue (tc 6) .cmdMin = -1000 ∧ hostValue State.reset .outFlags = 4 := by decide

/-! ## Witnesses: states and operands that meet the hypotheses of the statements -/

/-- DecodedWordIsItsEncoding, StepRunsTheDecodedCommand. -/
theorem witness_decoded_command :
    (about (issue 0x04A60000) State.reset).pending = issue 0x04A60000 :: [] ∧
      decode 0x04A60000 = .ok (.lpf16 1 2 3) := by decide

/-- OpcodeTableDecidesDecoding: a word, its row twice. -/
theorem witness_opcode_row :
    ∃ r ∈ opcodeTable, ∃ q ∈ opcodeTable, 0x4C8000B8#32 &&& r.mask = r.pattern ∧ 0x4C8000B8#32 &&& q.mask = q.pattern := by
  decide

/-- RefusedWordOnlyRecordsItsError, each clause: the illegal word nearest to TICK, and a legal word in HALTED. -/
theorem witness_refused_word :
    ((about (issue 0x80000001) State.reset).pending = issue 0x80000001 :: [] ∧
      (about (issue 0x80000001) State.reset).sup.state ≠ .halted ∧
      ∀ r ∈ opcodeTable, 0x80000001#32 &&& r.mask ≠ r.pattern) ∧
    (about (issue 0) (tcIn .halted)).pending = issue 0 :: [] ∧ (about (issue 0) (tcIn .halted)).sup.state = .halted := by
  decide

/-- PseudoCommandsDoWhatTheyExpandTo. -/
theorem witness_pseudo : State.reset.sup.state ≠ .halted ∧ 7 < 8 ∧ isWritable (.must .tcalAdd) = true := by decide

/-- BusErrorsHaveNoEffect: a width, a misaligned offset, an unmapped offset past the tone table, and a RO register. -/
theorem witness_bus_errors :
    (16 ≠ 32 ∨ (0x000#12).toNat % 4 ≠ 0 ∨ hostRegAt 0x000 = none) ∧
    (32 ≠ 32 ∨ (0xFFF#12).toNat % 4 ≠ 0 ∨ hostRegAt 0xFFF = none) ∧
    (32 ≠ 32 ∨ (0x0B8#12).toNat % 4 ≠ 0 ∨ hostRegAt 0x0B8 = none) ∧
    (hostRegAt 0x0A0 = some (.toneTab 0) ∧ accessOf (.toneTab 0) = .ro) ∧
    (about (.hostWrite 32 0x0A0 7) State.reset).pending = .hostWrite 32 0x0A0 7 :: [] := by decide

/-- HostAccessesReachTheRegister, each clause: the last mapped offset read, an unwritten register, the first offset
written. -/
theorem witness_host_accesses :
    ¬Unspecified State.reset (.txWord 4) ∧ Unspecified State.reset (.must .rate) ∧
    hostRegAt 0x044 = some (.must .rate) ∧ hostRegAt 0x250 = some (.txWord 4) ∧
    (about (.hostRead 32 0x250) State.reset).pending = .hostRead 32 0x250 :: [] ∧
    hostRegAt 0x000 = some (.x 0) ∧ isWritable (.x 0) = true ∧
    (about (.hostWrite 32 0x000 1) State.reset).pending = .hostWrite 32 0x000 1 :: [] := by
  refine ⟨?_, ⟨.rate, rfl, by decide⟩, by decide⟩
  rintro ⟨m, h, -⟩
  cases h

/-- DmaWriteSetsOneByte. -/
theorem witness_dma : (about (.dmaWrite 7 0xA8) State.reset).mem.wf ∧
    (about (.dmaWrite 7 0xA8) State.reset).pending = .dmaWrite 7 0xA8 :: [] := by decide

/-- WholeFrameReachesTheBuffer: over an older frame. -/
theorem witness_whole_frame :
    ({ tcFrame 7 0x0064FFFF 0 with pending := frameWrites (Vector.replicate 8 0x55) } : State).mem.wf ∧
    ({ tcFrame 7 0x0064FFFF 0 with pending := frameWrites (Vector.replicate 8 0x55) } : State).pending =
      frameWrites (Vector.replicate 8 0x55) := by decide

/-- WritableRegistersAreTheListedOnes, each clause: TONE_TAB1 and TONE_TAB0. -/
theorem witness_writable :
    hostRegAt 0x0A4 = some (.toneTab 1) ∧ hostRegAt 0x0A0 = some (.toneTab 0) ∧ State.reset.sup.state ≠ .halted := by
  decide

/-- WrittenRegisterReadsBack, WriteLeavesOtherRegisters: a must-write register and another one. -/
theorem witness_store :
    State.reset.mem.wf ∧ accessOf (.must .rate) = .rw ∧ isWritable (.must .rate) = true ∧
      HostReg.must .tcalAdd ≠ .must .rate ∧ HostReg.rxWord 1 ≠ .must .rate := by decide

/-- OnlyTickAndResetsWriteReadOnlyState. -/
theorem witness_other_step :
    (about (.dmaWrite 0 1) State.reset).mem.wf ∧
      after (step (about (.dmaWrite 0 1) State.reset)) (fun t => t.mem) = some [(0x200, 1)] := by decide

/-- The statements whose only hypothesis is a state outside HALTED: Lpf16FiltersWithoutSaturating,
Lpf32FiltersWithoutSaturating, Sat16Saturates, ImmediatesAndMovesWriteTheirRegister, Xor16XorsTheLowHalves. -/
theorem witness_not_halted : (withRegs 1 2 3 4).sup.state ≠ .halted := by decide

/-- Lp16KeepsItsLaws: the ends of the ranges. -/
theorem witness_lp16_laws :
    ∃ x c st : Int, -32768 ≤ x ∧ x ≤ 32767 ∧ 0 ≤ c ∧ c ≤ 65535 ∧ -32768 ≤ st ∧ st ≤ 32767 ∧ x = 32767 ∧ c = 65535 :=
  ⟨32767, 65535, -32768, by decide⟩

/-- Rl16LimitsOrRefusesItsRate, each clause: rate 0 and rate −1. -/
theorem witness_rl16 :
    (withRegs 5 100 0 0).sup.state ≠ .halted ∧
    0 ≤ ((getReg (withRegs 5 100 0 0) 3).extractLsb' 0 16).toInt ∧
    ((getReg (withRegs 5 100 0xFFFF 0) 3).extractLsb' 0 16).toInt < 0 := by decide

/-- Rl16KeepsItsLaws: the greatest rate, and a distance within it. -/
theorem witness_rl16_laws :
    ∃ x r st : Int, -32768 ≤ x ∧ x ≤ 32767 ∧ 0 ≤ r ∧ r ≤ 32767 ∧ -32768 ≤ st ∧ st ≤ 32767 ∧ mag (x * 16 - st) ≤ r ∧
      -32768 ≤ x * 16 ∧ x * 16 ≤ 32767 ∧ st ≤ x * 16 ∧ x = 2047 :=
  ⟨2047, 32767, 0, by decide⟩

/-- MixersMixOrRefuseTheRange, each clause: a range of one value, and an empty one. -/
theorem witness_mixers :
    (tcWith { tcConfig with cmdMin := 5, cmdMax := 5 }).sup.state ≠ .halted ∧
    (tcWith { tcConfig with cmdMin := 5, cmdMax := 5 }).cfg.cmdMin.toInt ≤
      (tcWith { tcConfig with cmdMin := 5, cmdMax := 5 }).cfg.cmdMax.toInt ∧
    (tcWith { tcConfig with cmdMin := 5, cmdMax := 4 }).cfg.cmdMax.toInt <
      (tcWith { tcConfig with cmdMin := 5, cmdMax := 4 }).cfg.cmdMin.toInt := by decide

/-- MixerOutputStaysInRange: a range that meets [−2048, 2047] in one value only, at either end. -/
theorem witness_mixer_range :
    ((2047 : Int) ≤ 32767 ∧ (2047 : Int) ≤ 2047 ∧ (-2048 : Int) ≤ 32767) ∧
    ((-32768 : Int) ≤ -2048 ∧ (-32768 : Int) ≤ 2047 ∧ (-2048 : Int) ≤ -2048) := by decide

/-- LdrReadsTheHostView, StrWritesByTheClassRule, each clause: misaligned, unmapped, written, unwritten, RO, CMD, W1C. -/
theorem witness_transfer :
    State.reset.sup.state ≠ .halted ∧ (0x0B9#12).toNat % 4 ≠ 0 ∧ ((0x0B8#12).toNat % 4 = 0 ∧ hostRegAt 0x0B8 = none) ∧
    (hostRegAt 0x044 = some (.must .rate) ∧ ¬Unspecified (tc 6) (.must .rate) ∧ Unspecified State.reset (.must .rate) ∧
      accessOf (.must .rate) = .rw) ∧
    (hostRegAt 0x114 = some .tempDegc ∧ accessOf .tempDegc = .ro) ∧ (hostRegAt 0x020 = some .cmd ∧ accessOf .cmd = .cmd) ∧
    (hostRegAt 0x024 = some .status ∧ accessOf .status = .w1c) := by
  refine ⟨by decide, by decide, by decide, ⟨by decide, ?_, ⟨.rate, rfl, by decide⟩, by decide⟩, by decide⟩
  rintro ⟨m, h, hw⟩
  cases h
  exact absurd hw (by decide)

/-- LdrOfCmdReturnsItsOwnWord. -/
theorem witness_ldr_cmd :
    (about (issue (encode (.ldr 1 0x020))) State.reset).sup.state ≠ .halted ∧
    (about (issue (encode (.ldr 1 0x020))) State.reset).pending = issue (encode (.ldr 1 0x020)) :: [] := by decide

/-- FrmchkClassifiesTheFrame, each clause: unwritten sentinels, equal ones, and different ones. -/
theorem witness_frmchk :
    (State.reset.sup.state ≠ .halted ∧ State.reset.ctl.cfgValid.getLsbD 13 = false) ∧
    ((tc 7).ctl.cfgValid.getLsbD 13 = true ∧ (tc 7).ctl.cfgValid.getLsbD 14 = true ∧
      (tc 7).cfg.startSent ≠ (tc 7).cfg.consumedSent) ∧
    ((tcWith { tcConfig with consumedSent := 0xABCD }).sup.state ≠ .halted ∧
      (tcWith { tcConfig with consumedSent := 0xABCD }).ctl.cfgValid.getLsbD 13 = true ∧
      (tcWith { tcConfig with consumedSent := 0xABCD }).ctl.cfgValid.getLsbD 14 = true ∧
      (tcWith { tcConfig with consumedSent := 0xABCD }).cfg.startSent =
        (tcWith { tcConfig with consumedSent := 0xABCD }).cfg.consumedSent) := by decide

/-- Every statement about a pipeline TICK: with the ports as source. -/
theorem witness_pipeline_ports : PipelineTick (tc 6) ∧ (tc 6).mem.wf ∧ (tc 6).cfg.ctrl.getLsbD 0 = false :=
  ⟨⟨by decide, by decide, by decide, by decide, by decide, by decide, by decide⟩, by decide, by decide⟩

/-- AcceptedFrameIsTakenAndConsumed. -/
theorem witness_accepted_frame :
    PipelineTick (tcFrame 7 0x0064ABCD 0xA84103E8) ∧ (tcFrame 7 0x0064ABCD 0xA84103E8).mem.wf ∧
      (tcFrame 7 0x0064ABCD 0xA84103E8).cfg.ctrl.getLsbD 0 = true ∧
      verdict (tcFrame 7 0x0064ABCD 0xA84103E8) = .accept :=
  ⟨⟨by decide, by decide, by decide, by decide, by decide, by decide, by decide⟩, by decide, by decide, by decide⟩

/-- MissingFrameCountsTowardTheTimeout: the three verdicts without a frame. -/
theorem witness_missing_frame :
    PipelineTick (tc 7) ∧ (tc 7).mem.wf ∧ (tc 7).cfg.ctrl.getLsbD 0 = true ∧ verdict (tc 7) = .resync ∧
      verdict (tcFrame 7 0x0064FFFF 0) = .stale ∧ verdict (tcFrame 7 0x0064ABCD 0) = .badsum :=
  ⟨⟨by decide, by decide, by decide, by decide, by decide, by decide, by decide⟩, by decide, by decide, by decide,
    by decide, by decide⟩

/-- AcceptedFrameIsAppliedOnce: the state after the accepting TICK meets the inner hypotheses too. -/
theorem witness_applied_once :
    2 ≤ (tcFrame 7 0x0064ABCD 0xA84103E8).cfg.serTimeout.toNat ∧
    ∃ t, exec .tick (tcFrame 7 0x0064ABCD 0xA84103E8) = .next t ∧ PipelineTick t :=
  ⟨by decide, _, rfl, ⟨by decide, by decide, by decide, by decide, by decide, by decide, by decide⟩⟩

/-- FeedbackFrameIsBuiltWhenDue, the clause of a frame that is due: FB_DIV 19. -/
theorem witness_feedback_due :
    after (exec .tick { tc 6 with der := { (tc 6).der with fbDiv := 19 } })
      (fun t => (decide (t.sup.state ≠ .poweroff), t.der.fbDiv, t.out.txStart)) = some (true, 0, true) ∧
    (tc 6).cfg.ctrl.getLsbD 1 = true ∧ (tc 6).ports.txBusy = false ∧ (tc 6).der.fbDiv ≠ 19 := by decide

/-- PipelineTickMixesAndGates, the clauses of an open and a closed gate: V1 and V7's first TICK. -/
theorem witness_gate :
    after (exec .tick (tc 6)) (fun t => (t.der.mixR, timedOut t)) = some (0, false) ∧
    after (exec .tick { tc 6 with filt := { (tc 6).filt with rlSpeed := 16000, lpfSpeed := 16000 },
                                  ports := { PortSample.zero with bat := 3700, speed := 1000 } })
      (fun t => (t.der.mixR, t.out.tgtR)) = some (999, 0) := by decide

/-- AcceptedTickSamplesAndCounts, AcceptedTickFrame: a TICK is accepted in every state but HALTED. -/
theorem witness_accepted_tick :
    TickAccepted (tc 6) ∧ (tc 6).mem.wf ∧ TickAccepted (tcIn .btnWait) ∧ TickAccepted (tcIn .poweroff) := by
  refine ⟨(tickAccepted_iff _).2 ⟨by decide, fun _ => by decide⟩, by decide, ?_, ?_⟩ <;>
    exact (tickAccepted_iff _).2 ⟨by decide, fun h => absurd h (by rintro (h | h) <;> cases h)⟩

/-- AcceptedTickSamplesAndCounts, AcceptedTickFrame, their clauses: a pressed button, a source and a feedback that are off,
and the last step of the ramp. -/
theorem witness_accepted_tick_clauses :
    TickAccepted (tc 4) ∧ (tc 4).cfg.ctrl.getLsbD 0 = false ∧ (tc 4).cfg.ctrl.getLsbD 1 = false ∧
    (checksConfig (tc 4) ∧ (tc 4).ports.btn = false) ∧ ¬checksConfig (tcIn .poweroff) ∧
    ¬((tcIn .poweroff).sup.state = .poweroff ∧ (tcIn .poweroff).cfg.poSteps.toNat ≤ (tcIn .poweroff).sup.poStep.toNat) := by
  refine ⟨(tickAccepted_iff _).2 ⟨by decide, fun _ => by decide⟩, by decide, by decide, ⟨.inl rfl, by decide⟩, ?_, by decide⟩
  rintro (h | h) <;> cases h

/-- ButtonPressEntersTheWait. -/
theorem witness_button_press :
    TickAccepted { tc 6 with ports := { PortSample.zero with btn := true } } ∧
      ({ tc 6 with ports := { PortSample.zero with btn := true } } : State).sup.state = .disabled ∧
      ({ tc 6 with ports := { PortSample.zero with btn := true } } : State).ports.btn = true := by
  exact ⟨(tickAccepted_iff _).2 ⟨by decide, fun _ => by decide⟩, by decide, by decide⟩

/-- ButtonWaitEndsOnRelease, each clause: held, released after a SWRESET, released after a power-on reset. -/
theorem witness_button_wait :
    (tcIn .btnWait).sup.state = .btnWait ∧ (tcIn .btnWait).ports.btn = false ∧
    (tcIn .btnWait).ctl.rstFlags.getLsbD 2 = false ∧ (tcIn .btnWait).ctl.rstFlags.getLsbD 3 = false ∧
    (({ tcIn .btnWait with ctl := { (tcIn .btnWait).ctl with rstFlags := 5 } } : State).sup.state = .btnWait ∧
      ({ tcIn .btnWait with ctl := { (tcIn .btnWait).ctl with rstFlags := 5 } } : State).ports.btn = false ∧
      ({ tcIn .btnWait with ctl := { (tcIn .btnWait).ctl with rstFlags := 5 } } : State).ctl.rstFlags.getLsbD 2 = true) ∧
    ({ tcIn .btnWait with ports := { PortSample.zero with btn := true } } : State).sup.state = .btnWait ∧
    ({ tcIn .btnWait with ports := { PortSample.zero with btn := true } } : State).ports.btn = true := by decide

/-- PowerOffStepRampsThenHalts, each clause: the first and the last step. -/
theorem witness_power_off_step :
    (tcIn .poweroff).sup.state = .poweroff ∧ (tcIn .poweroff).sup.poStep.toNat < (tcIn .poweroff).cfg.poSteps.toNat ∧
    ({ tcIn .poweroff with sup := { state := .poweroff, poStep := 8 } } : State).sup.state = .poweroff ∧
    ({ tcIn .poweroff with sup := { state := .poweroff, poStep := 8 } } : State).cfg.poSteps.toNat ≤
      ({ tcIn .poweroff with sup := { state := .poweroff, poStep := 8 } } : State).sup.poStep.toNat := by decide

/-- PowerOffEndsInHalted: eight steps of the ramp to go. -/
theorem witness_power_off_run :
    ({ tcIn .poweroff with pending := List.replicate 9 (issue 0x80000000) } : State).sup.state = .poweroff ∧
    (tcIn .poweroff).sup.poStep.toNat + 8 = (tcIn .poweroff).cfg.poSteps.toNat ∧
    ({ tcIn .poweroff with pending := List.replicate 9 (issue 0x80000000) } : State).pending =
      List.replicate (8 + 1) (issue 0x80000000) := by decide

/-- OnlyHardwareResetLeavesHalted: a TICK in HALTED. -/
theorem witness_halted_step :
    (about (issue 0x80000000) (tcIn .halted)).sup.state = .halted ∧
    ∃ t, step (about (issue 0x80000000) (tcIn .halted)) = .next t := ⟨by decide, _, rfl⟩

/-- ErrorsArePreciseAndPrioritised, each clause: a TICK with no configuration, and a NOP. -/
theorem witness_errors : reports .cfgUnset .tick State.reset ∧ errorFree .nop State.reset := by
  refine ⟨⟨.inl ⟨rfl, .inl rfl, by decide⟩, [.halted, .illegal, .align, .noReg, .ro], [.badCfg, .rateNeg], rfl, ?_⟩, ?_⟩
  · intro d hd
    fin_cases hd <;> simp [errorCause, show State.reset.sup.state = .disabled from rfl]
  · intro e
    cases e <;> simp [errorCause, show State.reset.sup.state = .disabled from rfl]

/-- SwresetResetsAndMarksSoft, each clause. -/
theorem witness_swreset :
    (tcIn .poweroff).sup.state ≠ .halted ∧ (tcIn .poweroff).sup.state = .poweroff ∧ (tcIn .btnWait).sup.state ≠ .halted ∧
    (tcIn .btnWait).sup.state ≠ .poweroff := by decide

/-- HardwareResetResetsEverywhere: in HALTED. -/
theorem witness_hardware_reset : (about .hardReset (tcIn .halted)).pending = .hardReset :: [] := by decide

/-- ResetGivesTheTabledValues, and the registers the resets restore: CMD_MIN is one of them. -/
theorem witness_reset_value : HostReg.cmdMin ≠ .rstFlags ∧ ∀ m, HostReg.cmdMin ≠ .must m := by
  exact ⟨by decide, fun m => by simp⟩

/-- EveryStepKeepsTheInvariant: a configured block about to run a TICK. -/
theorem witness_invariant :
    Inv (about (issue 0x80000000) (tc 6)) ∧ ∃ t, step (about (issue 0x80000000) (tc 6)) = .next t :=
  ⟨⟨by decide, by decide, by decide, by decide, by decide, by decide, by decide, by decide, by decide⟩, _, rfl⟩

/-- UnwrittenConfigurationIsNeverUsed: two states that differ in RATE, which no one has written. -/
theorem witness_unwritten :
    SameButUnwritten State.reset { State.reset with cfg := { ConfigRegs.reset with rate := 7 } } ∧
      State.reset ≠ { State.reset with cfg := { ConfigRegs.reset with rate := 7 } } := by
  refine ⟨⟨_, rfl, ⟨rfl, rfl, rfl, rfl, rfl, rfl, rfl, by decide, ?_⟩⟩, by decide⟩
  intro m h
  simp [State.reset] at h

end Sys2Proof.Tests
end

section
/-! PROOFS of 30_encoding.md. The four formats of R131 as numbers, and R140's field formula for every command. -/

namespace Sys2Proof

/-! ## The formats -/

/-- R140's formula of format R: each concatenation shifts the fields before it, and the shifts add up. -/
theorem toNat_formatR (op : BitVec 6) (rd ra rb rc : Reg) :
    (formatR op rd ra rb rc).toNat =
      (op.toNat <<< 26 ||| rd.val <<< 23 ||| ra.val <<< 20 ||| rb.val <<< 17 ||| rc.val <<< 14) := by
  rw [formatR, BitVec.toNat_append, BitVec.toNat_append, BitVec.toNat_append, BitVec.toNat_append, BitVec.toNat_append]
  simp only [Nat.shiftLeft_or_distrib, ← Nat.shiftLeft_add, BitVec.toNat_ofFin, BitVec.toNat_zero, Nat.or_zero,
    Nat.reduceAdd]

/-- R140's formula of format I. -/
theorem toNat_formatI (op : BitVec 6) (rd : Reg) (imm : Half) :
    (formatI op rd imm).toNat = (op.toNat <<< 26 ||| rd.val <<< 23 ||| imm.toNat) := by
  rw [formatI, BitVec.toNat_append, BitVec.toNat_append, BitVec.toNat_append]
  simp only [Nat.shiftLeft_or_distrib, ← Nat.shiftLeft_add, BitVec.toNat_ofFin, BitVec.toNat_zero, Nat.or_zero,
    Nat.reduceAdd]

/-- R140's formula of format M. -/
theorem toNat_formatM (op : BitVec 6) (r : Reg) (off : Offset) :
    (formatM op r off).toNat = (op.toNat <<< 26 ||| r.val <<< 23 ||| off.toNat) := by
  rw [formatM, BitVec.toNat_append, BitVec.toNat_append, BitVec.toNat_append]
  simp only [Nat.shiftLeft_or_distrib, ← Nat.shiftLeft_add, BitVec.toNat_ofFin, BitVec.toNat_zero, Nat.or_zero,
    Nat.reduceAdd]

/-- R140's formula of format N. -/
theorem toNat_formatN (op : BitVec 6) : (formatN op).toNat = op.toNat <<< 26 := by
  rw [formatN, BitVec.toNat_append, BitVec.toNat_zero, Nat.or_zero]

/-! ## Format R with fields its row does not use (R135): a zero field adds nothing to the word -/

theorem toNat_formatR_rd_ra_rb (op : BitVec 6) (rd ra rb : Reg) :
    (formatR op rd ra rb 0).toNat = (op.toNat <<< 26 ||| rd.val <<< 23 ||| ra.val <<< 20 ||| rb.val <<< 17) := by
  rw [toNat_formatR, Fin.val_zero, Nat.zero_shiftLeft, Nat.or_zero]

theorem toNat_formatR_rd_ra (op : BitVec 6) (rd ra : Reg) :
    (formatR op rd ra 0 0).toNat = (op.toNat <<< 26 ||| rd.val <<< 23 ||| ra.val <<< 20) := by
  rw [toNat_formatR_rd_ra_rb, Fin.val_zero, Nat.zero_shiftLeft, Nat.or_zero]

theorem toNat_formatR_rd (op : BitVec 6) (rd : Reg) :
    (formatR op rd 0 0 0).toNat = (op.toNat <<< 26 ||| rd.val <<< 23) := by
  rw [toNat_formatR_rd_ra, Fin.val_zero, Nat.zero_shiftLeft, Nat.or_zero]

/-! ## The commands -/

/-- Settles O2: each command by the formula of its format at the opcode of its row (R134), in the order of the table;
then R140's four examples, which are closed words. -/
theorem encodeIsTheFieldFormula : Obligations.EncodeIsTheFieldFormula := by
  unfold Obligations.EncodeIsTheFieldFormula
  refine ⟨fun rd ra rb rc imm off => ?_, by decide, by decide, by decide, by decide⟩
  exact ⟨toNat_formatN 0x00#6,
    toNat_formatR_rd_ra_rb 0x01#6 rd ra rb,
    toNat_formatR_rd_ra_rb 0x02#6 rd ra rb,
    toNat_formatR_rd_ra_rb 0x03#6 rd ra rb,
    toNat_formatR 0x04#6 rd ra rb rc,
    toNat_formatR 0x05#6 rd ra rb rc,
    toNat_formatR_rd_ra 0x06#6 rd ra,
    toNat_formatR_rd_ra_rb 0x07#6 rd ra rb,
    toNat_formatR_rd 0x08#6 rd,
    toNat_formatI 0x10#6 rd imm,
    toNat_formatI 0x11#6 rd imm,
    toNat_formatR_rd_ra 0x12#6 rd ra,
    toNat_formatM 0x13#6 rd off,
    toNat_formatM 0x14#6 rd off,
    toNat_formatN 0x20#6,
    toNat_formatN 0x21#6⟩

end Sys2Proof
end

section
/-! PROOFS of 40_fixed_point.md. lp16 and rl16 in the printed arithmetic of R201 and R211, the monotone iteration of lp16,
the laws of R203 and R213, and RL16. -/

namespace Sys2Proof.Machine

/-! ## Magnitudes and saturation (R13) -/

theorem mag_le {v b : Int} : mag v ≤ b ↔ -b ≤ v ∧ v ≤ b := by
  rw [← Int.lt_add_one_iff, mag_lt]
  omega

theorem sat16_mono : Monotone sat16 := fun v w h => by
  rw [sat16_eq_max_min, sat16_eq_max_min]
  omega

/-! ## rl16 (R211, R213) -/

/-- R211 for the rates it is defined for. -/
theorem rl16_eq_max_min {r : Int} (h : 0 ≤ r) (x st : Int) :
    rl16 x r st = max (-32768) (min 32767 (st + max (-r) (min r (x * 16 - st)))) := by
  rw [rl16, sat16_eq_max_min, clamp_eq_max_min (by omega), shl]
  rfl

/-- R213 item 1. The saturation only brings the sum nearer to an int16 state. -/
theorem mag_rl16_sub_le {r st : Int} (hr : 0 ≤ r) (hst : -32768 ≤ st) (hst' : st ≤ 32767) (x : Int) :
    mag (rl16 x r st - st) ≤ r := by
  rw [mag_le, rl16_eq_max_min hr]
  omega

/-- R213 item 2. -/
theorem rl16_zero_rate {st : Int} (hst : -32768 ≤ st) (hst' : st ≤ 32767) (x : Int) : rl16 x 0 st = st := by
  rw [rl16_eq_max_min le_rfl]
  omega

/-- R213 item 3. -/
theorem rl16_of_within_rate {x r st : Int} (hr : 0 ≤ r) (hd : mag (x * 16 - st) ≤ r) (hx : -32768 ≤ x * 16)
    (hx' : x * 16 ≤ 32767) : rl16 x r st = x * 16 := by
  rw [mag_le] at hd
  rw [rl16_eq_max_min hr]
  omega

/-- R213 item 5, upward. -/
theorem rl16_between_of_le {x r st : Int} (hr : 0 ≤ r) (hst : -32768 ≤ st) (hst' : st ≤ 32767) (h : st ≤ x * 16) :
    st ≤ rl16 x r st ∧ rl16 x r st ≤ x * 16 := by
  rw [rl16_eq_max_min hr]
  omega

/-- R213 item 5, downward. -/
theorem rl16_between_of_ge {x r st : Int} (hr : 0 ≤ r) (hst : -32768 ≤ st) (hst' : st ≤ 32767) (h : x * 16 ≤ st) :
    x * 16 ≤ rl16 x r st ∧ rl16 x r st ≤ st := by
  rw [rl16_eq_max_min hr]
  omega

/-- Settles O24: R213's items in order, each for all operands; then its five examples, which are closed values. -/
theorem rl16KeepsItsLaws : Obligations.Rl16KeepsItsLaws := by
  unfold Obligations.Rl16KeepsItsLaws
  refine ⟨fun x r st _ _ hr _ hst hst' => ?_, by decide, by decide, by decide, by decide, by decide⟩
  exact ⟨mag_rl16_sub_le hr hst hst' x, rl16_zero_rate hst hst' x, rl16_of_within_rate hr,
    rl16_between_of_le hr hst hst', rl16_between_of_ge hr hst hst'⟩

/-! ## RL16 (R210 to R212) -/

/-- The body of RL16, outside HALTED: the check of R212, then the write of R210. -/
theorem exec_rl16 {s : State} (h : s.sup.state ≠ .halted) (rd ra rb : Reg) :
    exec (.rl16 rd ra rb) s =
      if s16 (lowHalf (getReg s rb)) < 0 then .next (raiseError .rateNeg s)
      else .next (setReg rd (wrap32 (rl16 (s16 (lowHalf (getReg s ra))) (s16 (lowHalf (getReg s rb)))
        (s16 (lowHalf (getReg s rd))))) s) := by
  rw [show exec (.rl16 rd ra rb) s = execRl16 rd ra rb s from rfl, execRl16]
  split
  · exact runCommand_error h _
  · exact runCommand_ok h _

/-- Settles O23: the two sides of R212's check; a rate of 0 or more puts rl16 in the form of R211. -/
theorem rl16LimitsOrRefusesItsRate : Obligations.Rl16LimitsOrRefusesItsRate := by
  unfold Obligations.Rl16LimitsOrRefusesItsRate
  intro rd ra rb s hs
  constructor
  · intro (hrate : 0 ≤ s16 (lowHalf (getReg s rb)))
    rw [exec_rl16 hs, if_neg hrate.not_gt, rl16_eq_max_min hrate]
    rfl
  · intro (hrate : s16 (lowHalf (getReg s rb)) < 0)
    rw [exec_rl16 hs, if_pos hrate, raiseError_eq]
    rfl

/-! ## lp16 (R201, R203) -/

/-- R201 with its floor shifts as floor divisions. -/
theorem lp16_eq_sat16 (x c st : Int) :
    lp16 x c st = sat16 (x * c / 65536 + (65535 - c) * st / 65536) := rfl

/-- R203 item 1: the state is ignored. -/
theorem lp16_full_coef {x : Int} (hx : -32768 ≤ x) (hx' : x ≤ 32767) (st : Int) :
    lp16 x 65535 st = x * 65535 / 65536 := by
  rw [lp16_eq_sat16, sat16_of_range] <;> omega

/-- R203 item 2: the input is ignored. -/
theorem lp16_zero_coef {st : Int} (hst : -32768 ≤ st) (hst' : st ≤ 32767) (x : Int) :
    lp16 x 0 st = 65535 * st / 65536 := by
  rw [lp16_eq_sat16, sat16_of_range] <;> omega

/-- The factor 65535 / 65536 with the floor of R12: it takes one from a positive int16 value and keeps the others. -/
theorem mul_65535_div_65536 {v : Int} (h : -32768 ≤ v) (h' : v ≤ 32767) :
    v * 65535 / 65536 = if 1 ≤ v then v - 1 else v := by
  split <;> omega

/-- R203 item 3: lp16 is non-decreasing in its state. -/
theorem lp16_mono {c : Int} (hc : c ≤ 65535) (x : Int) : Monotone (lp16 x c) := fun st st' h => by
  have hprod : (65535 - c) * st ≤ (65535 - c) * st' := Int.mul_le_mul_of_nonneg_left h (by omega)
  have hshift := Int.ediv_le_ediv (by omega : (0 : Int) < 65536) hprod
  rw [lp16_eq_sat16, lp16_eq_sat16]
  exact sat16_mono (by omega)

/-- Iterating lp16 from an int16 state stays in int16. -/
theorem lp16_iterate_range {st : Int} (hst : -32768 ≤ st) (hst' : st ≤ 32767) (x c : Int) :
    ∀ n, (lp16 x c)^[n] st ∈ Set.Icc (-32768) 32767
  | 0 => ⟨hst, hst'⟩
  | n + 1 => by
    rw [Function.iterate_succ_apply']
    exact lp16_range _ _ _

/-- A sequence of integers that never falls and stays within bounds becomes constant. -/
theorem exists_settled_of_monotone {a : ℕ → Int} (ha : Monotone a) {lo hi : Int} (hb : ∀ n, a n ∈ Set.Icc lo hi) :
    ∃ n, ∀ k, a (n + k) = a n := by
  obtain ⟨n, hn⟩ := WellFoundedGT.monotone_chain_condition (α := Set.Icc lo hi) ⟨fun n => ⟨a n, hb n⟩, fun _ _ h => ha h⟩
  exact ⟨n, fun k => (congrArg Subtype.val (hn (n + k) (Nat.le_add_right n k))).symm⟩

/-- The same for one that never rises: its negation never falls. -/
theorem exists_settled_of_antitone {a : ℕ → Int} (ha : Antitone a) {lo hi : Int} (hb : ∀ n, a n ∈ Set.Icc lo hi) :
    ∃ n, ∀ k, a (n + k) = a n := by
  have hb' : ∀ n, -a n ∈ Set.Icc (-hi) (-lo) := fun n => ⟨neg_le_neg (hb n).2, neg_le_neg (hb n).1⟩
  obtain ⟨n, hn⟩ := exists_settled_of_monotone (a := fun n => -a n) ha.neg hb'
  exact ⟨n, fun k => neg_injective (hn k)⟩

/-- R203 item 3, for a constant input: the first step gives the direction of all of them, and the bounds stop them. -/
theorem lp16_iterate_monotone_and_settles {c st : Int} (hc : c ≤ 65535) (hst : -32768 ≤ st) (hst' : st ≤ 32767)
    (x : Int) :
    ((∀ n, (lp16 x c)^[n] st ≤ (lp16 x c)^[n + 1] st) ∨ (∀ n, (lp16 x c)^[n + 1] st ≤ (lp16 x c)^[n] st)) ∧
    ∃ n, ∀ k, (lp16 x c)^[n + k] st = (lp16 x c)^[n] st := by
  have hrange := lp16_iterate_range hst hst' x c
  rcases le_total st (lp16 x c st) with hup | hdown
  · have hmono := (lp16_mono hc x).monotone_iterate_of_le_map hup
    exact ⟨.inl fun n => hmono n.le_succ, exists_settled_of_monotone hmono hrange⟩
  · have hanti := (lp16_mono hc x).antitone_iterate_of_map_le hdown
    exact ⟨.inr fun n => hanti n.le_succ, exists_settled_of_antitone hanti hrange⟩

/-- Once the iteration is at a fixed point, it stays there. -/
theorem iterate_add_of_settled {f : Int → Int} {n : ℕ} {st y : Int} (hreach : f^[n] st = y) (hfix : f y = y) (k : ℕ) :
    f^[n + k] st = y := by
  rw [Nat.add_comm, Function.iterate_add_apply, hreach, Function.iterate_fixed hfix]

/-- R203 item 3's first value, from the 76th call on: 76 calls reach it and it is a fixed point. -/
theorem lp16_settles_at_15980 (k : ℕ) : (lp16 16000 6553)^[76 + k] 0 = 15980 :=
  iterate_add_of_settled (by simp [Function.iterate_succ_apply, lp16_eq_sat16, sat16, clamp]) (by decide) k

/-- R203 item 3's second value, which is the input itself. -/
theorem lp16_settles_at_neg_16000 (k : ℕ) : (lp16 (-16000) 6553)^[76 + k] 0 = -16000 :=
  iterate_add_of_settled (by simp [Function.iterate_succ_apply, lp16_eq_sat16, sat16, clamp]) (by decide) k

/-- Settles O21: R203's items in order; the values of items 3 and 4 are closed runs of lp16. -/
theorem lp16KeepsItsLaws : Obligations.Lp16KeepsItsLaws := by
  unfold Obligations.Lp16KeepsItsLaws
  refine ⟨fun x st hx hx' hst hst' => ?_, fun x c st st' _ hc h => lp16_mono hc x h,
    fun x c st _ _ _ hc hst hst' => lp16_iterate_monotone_and_settles hc hst hst' x,
    fun k => ⟨lp16_settles_at_15980 k, lp16_settles_at_neg_16000 k⟩, by decide⟩
  have hfull := lp16_full_coef hx hx' st
  have hzero := lp16_zero_coef hst hst' x
  exact ⟨hfull, hfull.trans (mul_65535_div_65536 hx hx'), hzero,
    hzero.trans (Int.mul_comm st 65535 ▸ mul_65535_div_65536 hst hst')⟩

end Sys2Proof.Machine
end

section
/-! PROOFS of 42_tick_conditioner_mixer.md. Every register of S2 and S4 as the state after a pipeline TICK shows it: the
later stages and the end of tick leave it alone. -/

namespace Sys2Proof.Machine

/-- A pipeline TICK as the command: the stages on the committed state (R262, R263). -/
theorem exec_tick_pipeline {s : State} (h : PipelineTick s) : exec .tick s = .next (pipeline (commitTick s)) :=
  execTick_pipeline h

/-! ## S2 through the whole pipeline (R270 to R272) -/

theorem pipeline_rlSteer (s : State) :
    (pipeline s).filt.rlSteer.toInt = rl16 (pipeline s).der.cmd1.toInt s.cfg.rate.toInt s.filt.rlSteer.toInt := by
  simp [pipeline, stagesSourceCondition, condition_rlSteer, s16]

theorem pipeline_rlSpeed (s : State) :
    (pipeline s).filt.rlSpeed.toInt = rl16 (pipeline s).der.cmd2.toInt s.cfg.rate.toInt s.filt.rlSpeed.toInt := by
  simp [pipeline, stagesSourceCondition, condition_rlSpeed, s16]

theorem pipeline_lpfSteer (s : State) :
    (pipeline s).filt.lpfSteer.toInt =
      lp16 (pipeline s).filt.rlSteer.toInt s.cfg.filtCoef.toNat s.filt.lpfSteer.toInt := by
  simp [pipeline, stagesSourceCondition, condition_lpfSteer, s16, z16]

/-- R271: the coefficient follows the sampled brake_in. -/
theorem pipeline_lpfSpeed (s : State) :
    (pipeline s).filt.lpfSpeed.toInt = lp16 (pipeline s).filt.rlSpeed.toInt
      (if s.snap.brake = true then s.cfg.filtCoefBrake.toNat else s.cfg.filtCoef.toNat) s.filt.lpfSpeed.toInt := by
  simp [pipeline, stagesSourceCondition, condition_lpfSpeed, s16, z16, apply_ite BitVec.toNat]

theorem pipeline_steerCmd (s : State) :
    (pipeline s).der.steerCmd.toInt = (pipeline s).filt.lpfSteer.toInt / 16 := by
  simp [pipeline, stagesSourceCondition, condition_steerCmd, asr]

theorem pipeline_speedCmd (s : State) :
    (pipeline s).der.speedCmd.toInt = (pipeline s).filt.lpfSpeed.toInt / 16 := by
  simp [pipeline, stagesSourceCondition, condition_speedCmd, asr]

/-- R272, first bound: rl16's own law on a register's int16 content. -/
theorem mag_rl16_sub_toInt_le {r : Int} (hr : 0 ≤ r) (x : Int) (st : Half) :
    mag (rl16 x r st.toInt - st.toInt) ≤ r :=
  mag_rl16_sub_le hr (s16_range st).1 (s16_range st).2 x

/-- R272, second bound: an int16 value shifted right by 4. -/
theorem toInt_div_16_range (p : Half) : -2048 ≤ p.toInt / 16 ∧ p.toInt / 16 ≤ 2047 := by
  have hp : -32768 ≤ p.toInt ∧ p.toInt ≤ 32767 := s16_range p
  omega

/-- Settles O41: each register's equation, then R272's bounds from them. -/
theorem pipelineTickConditionsBothAxes : Obligations.PipelineTickConditionsBothAxes := by
  unfold Obligations.PipelineTickConditionsBothAxes
  intro s hs
  have hsteer := toInt_div_16_range (pipeline (commitTick s)).filt.lpfSteer
  have hspeed := toInt_div_16_range (pipeline (commitTick s)).filt.lpfSpeed
  rw [← pipeline_steerCmd] at hsteer
  rw [← pipeline_speedCmd] at hspeed
  refine ⟨_, exec_tick_pipeline hs, pipeline_rlSteer _, pipeline_lpfSteer _, pipeline_rlSpeed _, pipeline_lpfSpeed _,
    pipeline_steerCmd _, pipeline_speedCmd _, ?steerStep, ?speedStep, hsteer.1, hsteer.2, hspeed⟩
  case steerStep =>
    rw [pipeline_rlSteer]
    exact mag_rl16_sub_toInt_le hs.rate _ _
  case speedStep =>
    rw [pipeline_rlSpeed]
    exact mag_rl16_sub_toInt_le hs.rate _ _

/-! ## S4 and S5 through the whole pipeline (R275, R277) -/

/-- The tick's commTO can be read in the state after it: no later stage writes LINK.TIMEOUT or the snapshot. -/
theorem timedOut_pipeline (s : State) : timedOut (pipeline s) = commTimeout (stagesSourceCondition s) := by
  simp [timedOut, commTimeout, ctrlSrc, pipeline]

/-- No stage after S2 writes what the mixer reads. -/
theorem mixStageR_pipeline (s : State) :
    mixStageR (pipeline s) = mixStageR (enableTransition (stagesSourceCondition s)) := by
  simp [mixStageR, pipeline]

theorem mixStageL_pipeline (s : State) :
    mixStageL (pipeline s) = mixStageL (enableTransition (stagesSourceCondition s)) := by
  simp [mixStageL, pipeline]

/-- The gate of a TICK compares the mixer's output with MIX_R and MIX_L as they were before it. -/
theorem gateOpen_pipeline (s : State) :
    gateOpen (mixStageR (enableTransition (stagesSourceCondition s)))
      (mixStageL (enableTransition (stagesSourceCondition s))) (commTimeout (stagesSourceCondition s))
      (enableTransition (stagesSourceCondition s)) =
    gateOpen (mixStageR (pipeline s)) (mixStageL (pipeline s)) (timedOut (pipeline s)) s := by
  rw [mixStageR_pipeline, mixStageL_pipeline, timedOut_pipeline]
  simp [gateOpen]

theorem gateOpen_iff (mR mL : Int) (c : Bool) (s : State) :
    gateOpen mR mL c s = true ↔
      mag (mR - s.der.mixR.toInt) < 50 ∧ mag (mL - s.der.mixL.toInt) < 50 ∧ c = false := by
  simp only [gateOpen, Bool.and_eq_true, decide_eq_true_eq, Bool.not_eq_true', and_assoc]
  rfl

theorem pipeline_mixR (s : State) : (pipeline s).der.mixR = wrap16 (mixStageR (pipeline s)) := by
  rw [mixStageR_pipeline]
  simp [pipeline, stagesMixMonitor, gate_mixR]

theorem pipeline_mixL (s : State) : (pipeline s).der.mixL = wrap16 (mixStageL (pipeline s)) := by
  rw [mixStageL_pipeline]
  simp [pipeline, stagesMixMonitor, gate_mixL]

/-- R277, right side: the target takes MIX_R or stays. -/
theorem pipeline_tgtR (s : State) :
    (pipeline s).out.tgtR =
      if gateOpen (mixStageR (pipeline s)) (mixStageL (pipeline s)) (timedOut (pipeline s)) s then
        (pipeline s).der.mixR else s.out.tgtR := by
  rw [pipeline_mixR, ← gateOpen_pipeline, mixStageR_pipeline]
  simp [pipeline, stagesMixMonitor, gate_tgtR]

/-- R277, left side. -/
theorem pipeline_tgtL (s : State) :
    (pipeline s).out.tgtL =
      if gateOpen (mixStageR (pipeline s)) (mixStageL (pipeline s)) (timedOut (pipeline s)) s then
        (pipeline s).der.mixL else s.out.tgtL := by
  rw [pipeline_mixL, ← gateOpen_pipeline, mixStageL_pipeline]
  simp [pipeline, stagesMixMonitor, gate_tgtL]

/-- R275's choice of gain, as the number the mixer takes. -/
theorem s16_speedGain (c : ConfigRegs) :
    s16 (speedGain c) =
      if c.ctrl.extractLsb' 3 2 = 2#2 then c.speedGainTurbo.toInt else c.speedGainNormal.toInt :=
  apply_ite s16 _ _ _

/-- A value between two int16 bounds survives being stored in a 16-bit register. -/
theorem toInt_wrap16_of_between {lo hi : Half} {v : Int} (h : s16 lo ≤ v ∧ v ≤ s16 hi) : (wrap16 v).toInt = v :=
  toInt_wrap16 ((s16_range lo).1.trans h.1) (h.2.trans (s16_range hi).2)

/-- The clamp into the command range keeps MIX_R exact in its register. -/
theorem toInt_pipeline_mixR {s : State} (h : s16 s.cfg.cmdMin ≤ s16 s.cfg.cmdMax) :
    (pipeline s).der.mixR.toInt = mixStageR (pipeline s) := by
  rw [pipeline_mixR, mixStageR, pipeline_cfg]
  exact toInt_wrap16_of_between (mixR_range h)

theorem toInt_pipeline_mixL {s : State} (h : s16 s.cfg.cmdMin ≤ s16 s.cfg.cmdMax) :
    (pipeline s).der.mixL.toInt = mixStageL (pipeline s) := by
  rw [pipeline_mixL, mixStageL, pipeline_cfg]
  exact toInt_wrap16_of_between (mixL_range h)

/-- Settles O42: MIX_R and MIX_L hold the mixer's exact output, so the gate's own test on that output decides both
targets. -/
theorem pipelineTickMixesAndGates : Obligations.PipelineTickMixesAndGates := by
  unfold Obligations.PipelineTickMixesAndGates
  intro s hs
  have hR := toInt_pipeline_mixR (s := commitTick s) hs.range
  have hL := toInt_pipeline_mixL (s := commitTick s) hs.range
  refine ⟨_, exec_tick_pipeline hs, ?right, ?left, fun hopen => ?opened, fun hshut => ?shut⟩
  case right =>
    rw [hR, mixStageR, s16_speedGain, pipeline_cfg]
    rfl
  case left =>
    rw [hL, mixStageL, s16_speedGain, pipeline_cfg]
    rfl
  case opened =>
    rw [hR, hL] at hopen
    have hgate := (gateOpen_iff _ _ _ (commitTick s)).2 hopen
    rw [pipeline_tgtR, pipeline_tgtL, if_pos hgate, if_pos hgate]
    exact ⟨rfl, rfl⟩
  case shut =>
    rw [hR, hL] at hshut
    have hgate := mt (gateOpen_iff _ _ _ (commitTick s)).1 hshut
    rw [pipeline_tgtR, pipeline_tgtL, if_neg hgate, if_neg hgate]
    exact ⟨rfl, rfl⟩

end Sys2Proof.Machine
end

section
/-! PROOFS of 43_supervisor.md. A TICK outside the pipeline as one equation of states; then what stages S3, S6 and S7 test
and write, read in the state after a pipeline TICK. -/

namespace Sys2Proof.Machine

/-! ## TICKs that run no stage (R261 to R263, R320 to R325) -/

/-- An accepted TICK is the commit and then the dispatch on SUP.STATE (R260). -/
theorem exec_tick_accepted {s : State} (h : TickAccepted s) : exec .tick s = .next (dispatchTick (commitTick s)) := by
  obtain ⟨hhalt, hchecks⟩ := (tickAccepted_iff s).1 h
  have herr : tickError s = none := by
    rw [tickError_none_iff]
    intro hc
    obtain ⟨hvalid, hrange, hsent, hprof, hrate⟩ := hchecks hc
    exact ⟨by simp [configured, hvalid], badTickConfig_eq_false.2 ⟨hrange, hsent, hprof⟩, hrate⟩
  show execTick s = _
  rw [execTick, herr, runCommand_ok hhalt]

/-- BTN_WAIT and POWEROFF make no configuration check (R261). -/
theorem tickAccepted_of_unchecked {s : State} (h : s.sup.state = .btnWait ∨ s.sup.state = .poweroff) :
    TickAccepted s := by
  rw [tickAccepted_iff]
  rcases h with h | h <;> simp [checksConfig, h]

theorem dispatchTick_pressed {s : State} (h : checksConfig s) (hb : s.snap.btn = true) :
    dispatchTick s = buttonPress s := by
  rcases h with h | h <;> simp [dispatchTick, h, hb]

theorem dispatchTick_btnWait {s : State} (h : s.sup.state = .btnWait) : dispatchTick s = buttonWaitStep s := by
  simp [dispatchTick, h]

theorem dispatchTick_poweroff {s : State} (h : s.sup.state = .poweroff) : dispatchTick s = powerOffStep s := by
  simp [dispatchTick, h]

/-- Settles O47: the dispatch sends the press to ButtonPress, which writes what R320 lists. -/
theorem buttonPressEntersTheWait : Obligations.ButtonPressEntersTheWait := by
  unfold Obligations.ButtonPressEntersTheWait
  intro s hs hstate hbtn
  rw [exec_tick_accepted hs, dispatchTick_pressed (s := commitTick s) hstate hbtn]
  rfl

/-- R321's first outcome: the wait goes on. -/
theorem buttonWaitStep_held {s : State} (h : s.snap.btn = true) :
    buttonWaitStep s = { s with out := { s.out with enable := false } } := by
  simp [buttonWaitStep, h]

/-- R321's second outcome: the resumption of R322. -/
theorem buttonWaitStep_resumes {s : State} (h : s.snap.btn = false)
    (hr : s.ctl.rstFlags.getLsbD 2 = true ∨ s.ctl.rstFlags.getLsbD 3 = true) :
    buttonWaitStep s = { resume s with out := { s.out with enable := false } } := by
  have hr' : (rstSoft s.ctl.rstFlags || rstDebug s.ctl.rstFlags) = true := by simpa [rstSoft, rstDebug] using hr
  simp [buttonWaitStep, h, hr']

/-- R321's third outcome: the entry of R324. -/
theorem buttonWaitStep_powersOff {s : State} (h : s.snap.btn = false) (hs : s.ctl.rstFlags.getLsbD 2 = false)
    (hd : s.ctl.rstFlags.getLsbD 3 = false) :
    buttonWaitStep s = { enterPowerOff s with out := { s.out with enable := false } } := by
  have hr : (rstSoft s.ctl.rstFlags || rstDebug s.ctl.rstFlags) = false := by rw [rstSoft, rstDebug, hs, hd]; rfl
  simp [buttonWaitStep, h, hr]

/-- Settles O48: one clause per outcome of ButtonWaitStep. -/
theorem buttonWaitEndsOnRelease : Obligations.ButtonWaitEndsOnRelease := by
  unfold Obligations.ButtonWaitEndsOnRelease
  rintro s w hwait rfl
  rw [exec_tick_accepted (tickAccepted_of_unchecked (.inl hwait)), dispatchTick_btnWait (s := commitTick s) hwait]
  refine ⟨fun hheld => ?held, fun hrel hflags => ?resumed, fun hrel hsoft hdebug => ?off⟩
  case held =>
    rw [buttonWaitStep_held (s := commitTick s) hheld]
    rfl
  case resumed =>
    rw [buttonWaitStep_resumes (s := commitTick s) hrel hflags]
    rfl
  case off =>
    rw [buttonWaitStep_powersOff (s := commitTick s) hrel hsoft hdebug]
    rfl

/-- R325 before the end of the ramp. -/
theorem powerOffStep_ramps {s : State} (h : s.sup.poStep.toNat < s.cfg.poSteps.toNat) :
    powerOffStep s =
      { s with out := { s.out with enable := false, buz := { freq := s.sup.poStep, pattern := 0#8, toneId := 6#3 } },
               sup := { s.sup with poStep := s.sup.poStep + 1#8 } } := by
  simp [powerOffStep, h]

/-- R325 at the end of the ramp. -/
theorem powerOffStep_halts {s : State} (h : s.cfg.poSteps.toNat ≤ s.sup.poStep.toNat) :
    powerOffStep s = raiseEvent .halt
      { s with out := { s.out with enable := false, buz := silence, powerLatch := false },
               sup := { s.sup with state := .halted } } := by
  simp only [powerOffStep, if_neg (Nat.not_lt.2 h)]
  rfl

/-- Settles O49: the two branches of PowerOffStep on the committed state. -/
theorem powerOffStepRampsThenHalts : Obligations.PowerOffStepRampsThenHalts := by
  unfold Obligations.PowerOffStepRampsThenHalts
  intro s hoff
  rw [exec_tick_accepted (tickAccepted_of_unchecked (.inr hoff)), dispatchTick_poweroff (s := commitTick s) hoff]
  refine ⟨fun hramp => ?ramp, fun hend => ?halt⟩
  case ramp =>
    rw [powerOffStep_ramps (s := commitTick s) hramp, ← hoff]
    rfl
  case halt =>
    rw [powerOffStep_halts (s := commitTick s) hend]
    rfl

/-! ## S6 through the whole pipeline: the measurements (R304, R305) -/

theorem pipeline_tempFilt (s : State) :
    (pipeline s).filt.tempFilt.toInt = lp32 s.snap.tempRaw.toInt s.cfg.tempCoef.toNat s.filt.tempFilt.toInt := by
  simp [pipeline, stagesMixMonitor, monitor, monitorTemp_tempFilt, s16, s32, z16]

theorem pipeline_tempDegc (s : State) :
    (pipeline s).der.tempDegc.toInt =
      sat16 (asr ((pipeline s).filt.tempFilt.toInt * s.cfg.tcalMul.toInt) 16 + s.cfg.tcalAdd.toInt) := by
  simp [pipeline, stagesMixMonitor, monitor, monitorTemp_tempDegc, s16, s32]

/-- Half a sum or a difference of two int16 values fits int16 (R305). -/
theorem toInt_wrap16_tdiv_two {v : Int} (h : -65536 ≤ v) (h' : v ≤ 65535) :
    (wrap16 (Int.tdiv v 2)).toInt = Int.tdiv v 2 :=
  toInt_wrap16 (Int.tdiv_le_tdiv (by omega) h) (Int.tdiv_le_tdiv (by omega) h')

theorem monitorSpeed_speedAvg (s : State) :
    (monitorSpeed s).der.speedAvg.toInt = Int.tdiv
      (if s.cfg.ctrl.getLsbD 2 = true then s.snap.measL.toInt - s.snap.measR.toInt
       else s.snap.measL.toInt + s.snap.measR.toInt) 2 := by
  have hl := s16_range s.snap.measL
  have hr := s16_range s.snap.measR
  exact toInt_wrap16_tdiv_two (by split_ifs <;> omega) (by split_ifs <;> omega)

theorem pipeline_speedAvg (s : State) :
    (pipeline s).der.speedAvg.toInt = Int.tdiv
      (if s.cfg.ctrl.getLsbD 2 = true then s.snap.measL.toInt - s.snap.measR.toInt
       else s.snap.measL.toInt + s.snap.measR.toInt) 2 := by
  simp [pipeline, stagesMixMonitor, monitor, monitorSpeed_speedAvg]

/-- Settles O43: the filter, the calibration and the measured speed, each from its own register equation. -/
theorem pipelineTickMeasures : Obligations.PipelineTickMeasures := by
  unfold Obligations.PipelineTickMeasures
  intro s hs
  refine ⟨_, exec_tick_pipeline hs, pipeline_tempFilt _, ?_, pipeline_speedAvg _⟩
  rw [pipeline_tempDegc, sat16_eq_max_min]
  rfl

/-! ## S6: the state its tests read -/

/-- The state after stages S1 to S5 and the measurements of S6, before the emergency disable. -/
def measured (s : State) : State :=
  let s3 := enableTransition (stagesSourceCondition s)
  monitorSpeed (monitorTemp (gate (mixStageR s3) (mixStageL s3) (commTimeout (stagesSourceCondition s)) s3))

/-- The state after stages S1 to S6. -/
def monitored (s : State) : State :=
  stagesMixMonitor (commTimeout (stagesSourceCondition s)) (stagesSourceCondition s)

theorem monitored_eq_selectTone (s : State) :
    monitored s = selectTone (commTimeout (stagesSourceCondition s)) (emergencyDisable (measured s)) := rfl

theorem pipeline_eq_endOfTick (s : State) :
    pipeline s = endOfTick (enables (stagesSourceCondition s)) (stagesInactivityFeedback (monitored s)) := rfl

@[simp] theorem measured_cfg (s : State) : (measured s).cfg = s.cfg := by simp [measured]
@[simp] theorem measured_snap (s : State) : (measured s).snap = s.snap := by simp [measured]
@[simp] theorem measured_ctl (s : State) : (measured s).ctl = (stagesSourceCondition s).ctl := by simp [measured]

@[simp] theorem monitored_cfg (s : State) : (monitored s).cfg = s.cfg := by simp [monitored]
@[simp] theorem monitored_inactCnt (s : State) : (monitored s).der.inactCnt = s.der.inactCnt := by simp [monitored]
@[simp] theorem monitored_poStep (s : State) : (monitored s).sup.poStep = s.sup.poStep := by simp [monitored]

theorem measured_state (s : State) :
    (measured s).sup.state = if enables (stagesSourceCondition s) = true then .enabled else s.sup.state := by
  simp [measured, enableTransition_state]

/-- R306's test as the rule prints it. -/
theorem emergency_iff (s : State) : emergency s = true ↔ emergencyHolds s := by
  simp only [emergency, still, Bool.or_eq_true, Bool.and_eq_true, decide_eq_true_eq]
  rw [← or_and_right, and_comm]
  rfl

/-- R306's test can be asked of the state after the TICK: no later stage writes what it reads. -/
theorem emergency_measured (s : State) : emergency (measured s) = emergency (pipeline s) := by
  simp [emergency, still, pipeline_eq_endOfTick, monitored_eq_selectTone]

/-- So can R308's choice, with the tick's own commTO. -/
theorem toneSelect_measured (s : State) :
    toneSelect (commTimeout (stagesSourceCondition s)) (emergencyDisable (measured s)) =
      toneSelect (timedOut (pipeline s)) (pipeline s) := by
  rw [timedOut_pipeline]
  simp [toneSelect, faulty, pipeline_eq_endOfTick, monitored_eq_selectTone]

/-! ## S6: the tone (R307, R308) -/

theorem pipeline_buz (s : State) :
    (pipeline s).out.buz =
      toneOf (BitVec.ofNat 3 (toneSelect (timedOut (pipeline s)) (pipeline s)).val)
        (toneEntry s.cfg (toneSelect (timedOut (pipeline s)) (pipeline s))) := by
  rw [← toneSelect_measured]
  simp [pipeline_eq_endOfTick, monitored_eq_selectTone, selectTone_buz]

/-- The fault of R307. -/
theorem faulty_iff (c : Bool) (s : State) :
    faulty c s = true ↔ s.snap.errR ≠ 0#8 ∨ s.snap.errL ≠ 0#8 ∨ c = true := by
  simp [faulty, or_assoc]

/-- A tone id fits BUZ.TONE_ID (R57). -/
theorem toNat_toneId (id : Fin 6) : (BitVec.ofNat 3 id.val).toNat = id.val := by
  simp only [BitVec.toNat_ofNat]
  omega

/-- Settles O44: the priority chain is toneSelect's, asked of the state after the TICK. -/
theorem pipelineTickSelectsOneTone : Obligations.PipelineTickSelectsOneTone := by
  unfold Obligations.PipelineTickSelectsOneTone
  intro s hs
  refine ⟨_, toneSelect (timedOut (pipeline (commitTick s))) (pipeline (commitTick s)), exec_tick_pipeline hs,
    ?choice, ?id, ?freq, ?pattern⟩
  case choice => simp only [toneSelect, faulty_iff, pipeline_snap, pipeline_cfg, commitTick_snap, commitTick_cfg, s16]
  case id =>
    rw [pipeline_buz]
    exact toNat_toneId _
  case freq =>
    rw [pipeline_buz]
    rfl
  case pattern =>
    rw [pipeline_buz]
    rfl

/-! ## S7: the inactivity counter (R312) -/

/-- The test of R312 can be asked of the state after the TICK: S7 and S8 leave the targets. -/
theorem inactive_monitored (s : State) : inactive (monitored s) = inactive (pipeline s) := by
  simp [inactive, pipeline_eq_endOfTick]

theorem inactive_iff (s : State) : inactive s = true ↔ mag s.out.tgtR.toInt < 50 ∧ mag s.out.tgtL.toInt < 50 := by
  simp only [inactive, Bool.and_eq_true, decide_eq_true_eq]
  rfl

/-- The saturating count of R312. -/
theorem inactCntNext_toNat (s : State) :
    (inactCntNext s).toNat = if inactive s = true then min (s.der.inactCnt.toNat + 1) (2 ^ 32 - 1) else 0 := by
  have hlt := s.der.inactCnt.isLt
  unfold inactCntNext
  split_ifs with hin hfull
  · simp [hfull]
  · have hne : s.der.inactCnt.toNat ≠ 2 ^ 32 - 1 := fun e => hfull (BitVec.eq_of_toNat_eq e)
    simp only [BitVec.toNat_add, BitVec.toNat_ofNat]
    omega
  · rfl

theorem stagesInactivityFeedback_inactCnt (s : State) :
    (stagesInactivityFeedback s).der.inactCnt = inactCntNext s := by
  simp only [stagesInactivityFeedback]
  split <;> simp [countInactivity_inactCnt]

theorem pipeline_inactCnt (s : State) :
    (pipeline s).der.inactCnt.toNat =
      if inactive (pipeline s) = true then min (s.der.inactCnt.toNat + 1) (2 ^ 32 - 1) else 0 := by
  rw [← inactive_monitored]
  simp [pipeline_eq_endOfTick, stagesInactivityFeedback_inactCnt, inactCntNext_toNat]

/-- Settles O46: the counter's equation with R312's test on the targets. -/
theorem pipelineTickCountsInactivity : Obligations.PipelineTickCountsInactivity := by
  unfold Obligations.PipelineTickCountsInactivity
  intro s hs
  refine ⟨_, exec_tick_pipeline hs, ?_⟩
  simp only [pipeline_inactCnt, inactive_iff, commitTick_inactCnt]

/-! ## SUP through the whole pipeline (R302, R306, R314) -/

/-- S3's test can be asked of the state after the TICK: no later stage writes the conditioned commands. -/
theorem enables_stagesSourceCondition (s : State) :
    enables (stagesSourceCondition s) = true ↔ s.sup.state = .disabled ∧ withinDeadBand (pipeline s) := by
  simp only [enables, Bool.and_eq_true, decide_eq_true_eq, and_assoc]
  simp [withinDeadBand, pipeline, s16, Config.smallBound]

/-- ENABLED as stage S6 finds it: it was before the TICK, or S3 entered it (R302). -/
theorem measured_enabled_iff {s : State} (h : checksConfig s) :
    (measured s).sup.state = .enabled ↔ s.sup.state = .enabled ∨ withinDeadBand (pipeline s) := by
  have hen := enables_stagesSourceCondition s
  rw [measured_state]
  split_ifs with he
  · exact iff_of_true rfl (.inr (hen.1 he).2)
  · exact (or_iff_left_of_imp fun hband => h.resolve_left fun hdis => he (hen.2 ⟨hdis, hband⟩)).symm

/-- S6 leaves ENABLED exactly where it finds it and no emergency holds (R306). -/
theorem emergencyDisable_enabled_iff (s : State) :
    (emergencyDisable s).sup.state = .enabled ↔ s.sup.state = .enabled ∧ ¬emergency s = true := by
  rw [emergencyDisable_state]
  split_ifs with h
  · simp [h.2]
  · simp only [not_and] at h
    exact ⟨fun he => ⟨he, h he⟩, And.left⟩

theorem monitored_enabled_iff {s : State} (h : checksConfig s) :
    (monitored s).sup.state = .enabled ↔
      (s.sup.state = .enabled ∨ withinDeadBand (pipeline s)) ∧ ¬emergencyHolds (pipeline s) := by
  rw [monitored_eq_selectTone, selectTone_sup, emergencyDisable_enabled_iff, measured_enabled_iff h, emergency_measured,
    emergency_iff]

/-- Stages S1 to S6 move between DISABLED and ENABLED only. -/
theorem monitored_state {s : State} (h : checksConfig s) : checksConfig (monitored s) := by
  rw [checksConfig, monitored_eq_selectTone, selectTone_sup, emergencyDisable_state, measured_state]
  split_ifs
  · exact .inl rfl
  · exact .inr rfl
  · exact .inl rfl
  · exact h

theorem stagesInactivityFeedback_state (s : State) :
    (stagesInactivityFeedback s).sup.state =
      if inactivityOver (countInactivity s) = true then .poweroff else s.sup.state := by
  simp only [stagesInactivityFeedback]
  split_ifs <;> simp [enterPowerOff_state]

theorem stagesInactivityFeedback_poStep (s : State) :
    (stagesInactivityFeedback s).sup.poStep =
      if inactivityOver (countInactivity s) = true then 0#8 else s.sup.poStep := by
  simp only [stagesInactivityFeedback]
  split_ifs <;> simp [enterPowerOff_poStep]

/-- R314's test can be asked of the state after the TICK: S8 leaves the counter. -/
theorem inactivityOver_monitored (s : State) :
    inactivityOver (countInactivity (monitored s)) = true ↔
      s.cfg.inactTicks.toNat < (pipeline s).der.inactCnt.toNat := by
  simp [inactivityOver, pipeline_eq_endOfTick, stagesInactivityFeedback_inactCnt, countInactivity_inactCnt]

/-- SUP.STATE after the stages: POWEROFF from S7, else what S6 left (R314). -/
theorem pipeline_state (s : State) :
    (pipeline s).sup.state =
      if s.cfg.inactTicks.toNat < (pipeline s).der.inactCnt.toNat then .poweroff
      else (monitored s).sup.state := by
  simp only [← inactivityOver_monitored]
  rw [← stagesInactivityFeedback_state, pipeline_eq_endOfTick, endOfTick_sup]

theorem pipeline_poweroff_iff {s : State} (h : checksConfig s) :
    (pipeline s).sup.state = .poweroff ↔ s.cfg.inactTicks.toNat < (pipeline s).der.inactCnt.toNat := by
  rw [pipeline_state]
  split_ifs with hover
  · exact iff_of_true rfl hover
  · rcases monitored_state h with hs | hs <;> simp [hs, hover]

theorem pipeline_enabled_iff {s : State} (h : checksConfig s) :
    (pipeline s).sup.state = .enabled ↔
      ¬s.cfg.inactTicks.toNat < (pipeline s).der.inactCnt.toNat ∧
        (s.sup.state = .enabled ∨ withinDeadBand (pipeline s)) ∧ ¬emergencyHolds (pipeline s) := by
  rw [← monitored_enabled_iff h, pipeline_state]
  split_ifs with hover <;> simp [hover]

theorem pipeline_state_cases {s : State} (h : checksConfig s) :
    (pipeline s).sup.state = .poweroff ∨ (pipeline s).sup.state = .enabled ∨ (pipeline s).sup.state = .disabled := by
  rw [pipeline_state]
  split_ifs
  · exact .inl rfl
  · exact .inr (monitored_state h).symm

theorem pipeline_poStep {s : State} (h : checksConfig s) :
    (pipeline s).sup.poStep = if (pipeline s).sup.state = .poweroff then 0#8 else s.sup.poStep := by
  simp only [pipeline_poweroff_iff h, ← inactivityOver_monitored]
  simp [pipeline_eq_endOfTick, stagesInactivityFeedback_poStep]

/-! ## ENABLE and the acknowledgement (R301, R303) -/

theorem pipeline_enable_iff (s : State) : (pipeline s).out.enable = true ↔ (pipeline s).sup.state = .enabled := by
  simp [pipeline, endOfTick_enable]

/-- The entry into ENABLED that EndOfTick acknowledges: from DISABLED, and still ENABLED after the stages (R303). -/
theorem acknowledged_iff {s : State} (h : checksConfig s) :
    (enables (stagesSourceCondition s) = true ∧ (pipeline s).sup.state = .enabled) ↔
      s.sup.state = .disabled ∧ (pipeline s).sup.state = .enabled := by
  rw [enables_stagesSourceCondition, and_assoc]
  refine and_congr_right fun hdis => and_iff_right_of_imp fun hen => ?_
  obtain ⟨-, hin, -⟩ := (pipeline_enabled_iff h).1 hen
  exact hin.resolve_left (by simp [hdis])

theorem pipeline_ack_iff {s : State} (h : checksConfig s) (hack : s.out.ack = false) :
    (pipeline s).out.ack = true ↔ s.sup.state = .disabled ∧ (pipeline s).sup.state = .enabled := by
  rw [← acknowledged_iff h]
  simp [pipeline, endOfTick_ack, hack]

/-! ## The events of a pipeline TICK (R303, R306, R314, R410) -/

/-- The events of the serial link and of the feedback frame: all that stages S1 and S8 raise. -/
def serialEvents : BitVec 11 :=
  eventBit .linkLost ||| eventBit .linkOk ||| eventBit .resync ||| eventBit .frameOk ||| eventBit .fbSent

theorem getLsbD_serialEvents {k : Nat} (h : serialEvents.getLsbD k = false) :
    (eventBit .linkLost).getLsbD k = false ∧ (eventBit .linkOk).getLsbD k = false ∧
      (eventBit .resync).getLsbD k = false ∧ (eventBit .frameOk).getLsbD k = false ∧
      (eventBit .fbSent).getLsbD k = false := by
  simpa only [serialEvents, BitVec.getLsbD_or, Bool.or_eq_false_iff, and_assoc] using h

/-- Raising an event, seen at one bit of IRQ_PEND. -/
theorem raiseEvent_irqPend_bit (e : IrqEvent) (s : State) (k : Nat) :
    (raiseEvent e s).ctl.irqPend.getLsbD k = (s.ctl.irqPend.getLsbD k || (eventBit e).getLsbD k) := by
  rw [raiseEvent_irqPend, BitVec.getLsbD_or]

theorem raiseEventIf_irqPend_bit {e : IrqEvent} {k : Nat} (h : (eventBit e).getLsbD k = false) (c : Bool) (s : State) :
    (raiseEventIf c e s).ctl.irqPend.getLsbD k = s.ctl.irqPend.getLsbD k := by
  cases c with
  | false => rfl
  | true => rw [raiseEventIf, if_pos rfl, raiseEvent_irqPend_bit, h, Bool.or_false]

theorem countMissing_irqPend_bit {k : Nat} (h : (eventBit .linkLost).getLsbD k = false) (s : State) :
    (countMissing s).ctl.irqPend.getLsbD k = s.ctl.irqPend.getLsbD k := by
  rw [countMissing, raiseEventIf_irqPend_bit h]

/-- S1 raises serial events only; so does S8. -/
theorem serialReceive_irqPend_bit {k : Nat} (h : serialEvents.getLsbD k = false) (s : State) :
    (serialReceive s).ctl.irqPend.getLsbD k = s.ctl.irqPend.getLsbD k := by
  obtain ⟨hlost, hok, hresync, hframe, -⟩ := getLsbD_serialEvents h
  have hmissing (u : State) := countMissing_irqPend_bit hlost u
  unfold serialReceive
  cases verdict s with
  | accept => simp only [acceptFrame, raiseEvent_irqPend_bit, hframe, Bool.or_false, raiseEventIf_irqPend_bit hok]
  | resync => simp only [hmissing, requestResync, raiseEvent_irqPend_bit, hresync, Bool.or_false]
  | stale => exact hmissing s
  | badsum => exact hmissing s

theorem stagesSourceCondition_irqPend_bit {k : Nat} (h : serialEvents.getLsbD k = false) (s : State) :
    (stagesSourceCondition s).ctl.irqPend.getLsbD k = s.ctl.irqPend.getLsbD k := by
  simp only [stagesSourceCondition, condition_ctl, commandSource, applyTimeout_ctl, takeCommands]
  split_ifs
  · exact serialReceive_irqPend_bit h s
  · rfl

theorem emergencyDisable_irqPend_bit (s : State) (k : Nat) :
    (emergencyDisable s).ctl.irqPend.getLsbD k = true ↔
      s.ctl.irqPend.getLsbD k = true ∨
        (s.sup.state = .enabled ∧ emergency s = true) ∧ (eventBit .monDis).getLsbD k = true := by
  rw [emergencyDisable_irqPend]
  split_ifs with h <;> simp [h, eventBit]

theorem feedback_irqPend_bit {k : Nat} (h : serialEvents.getLsbD k = false) (s : State) :
    (feedback s).ctl.irqPend.getLsbD k = s.ctl.irqPend.getLsbD k := by
  obtain ⟨-, -, -, -, hsent⟩ := getLsbD_serialEvents h
  simp only [feedback]
  split_ifs
  · rw [raiseEvent_irqPend_bit, hsent, Bool.or_false]
    rfl
  · rfl

theorem stagesInactivityFeedback_irqPend_bit {k : Nat} (h : serialEvents.getLsbD k = false) (s : State) :
    (stagesInactivityFeedback s).ctl.irqPend.getLsbD k = true ↔
      s.ctl.irqPend.getLsbD k = true ∨
        inactivityOver (countInactivity s) = true ∧ (eventBit .poweroff).getLsbD k = true := by
  simp only [stagesInactivityFeedback]
  split_ifs with hover
  · simp [enterPowerOff_irqPend, hover, eventBit]
  · simp [feedback_irqPend_bit h, hover]

theorem endOfTick_irqPend_bit (c : Bool) (s : State) (k : Nat) :
    (endOfTick c s).ctl.irqPend.getLsbD k = true ↔
      s.ctl.irqPend.getLsbD k = true ∨
        (c = true ∧ s.sup.state = .enabled) ∧ (eventBit .enabled).getLsbD k = true := by
  rw [endOfTick_irqPend]
  split_ifs with h <;> simp [h, eventBit]

theorem monitored_irqPend_bit {s : State} {k : Nat} (h : checksConfig s) (hk : serialEvents.getLsbD k = false) :
    (monitored s).ctl.irqPend.getLsbD k = true ↔
      s.ctl.irqPend.getLsbD k = true ∨
        ((s.sup.state = .enabled ∨ withinDeadBand (pipeline s)) ∧ emergencyHolds (pipeline s)) ∧
          (eventBit .monDis).getLsbD k = true := by
  rw [monitored_eq_selectTone, selectTone_ctl, emergencyDisable_irqPend_bit, measured_ctl,
    stagesSourceCondition_irqPend_bit hk, measured_enabled_iff h, emergency_measured, emergency_iff]

/-- An event other than the serial link's is pending after a pipeline TICK when it was before, or the supervisor raised
it: MON_DIS in S6, POWEROFF in S7, ENABLED at the end of tick. -/
theorem pipeline_irqPend_bit {s : State} {k : Nat} (h : checksConfig s) (hk : serialEvents.getLsbD k = false) :
    (pipeline s).ctl.irqPend.getLsbD k = true ↔
      ((s.ctl.irqPend.getLsbD k = true ∨
        ((s.sup.state = .enabled ∨ withinDeadBand (pipeline s)) ∧ emergencyHolds (pipeline s)) ∧
          (eventBit .monDis).getLsbD k = true) ∨
        (pipeline s).sup.state = .poweroff ∧ (eventBit .poweroff).getLsbD k = true) ∨
        (s.sup.state = .disabled ∧ (pipeline s).sup.state = .enabled) ∧ (eventBit .enabled).getLsbD k = true := by
  rw [← monitored_irqPend_bit h hk, ← acknowledged_iff h, pipeline_poweroff_iff h,
    ← inactivityOver_monitored, ← stagesInactivityFeedback_irqPend_bit hk]
  simp only [pipeline_eq_endOfTick, endOfTick_sup, endOfTick_irqPend_bit]

/-- Settles O45: where the state went, then ENABLE, the acknowledgement and one bit of IRQ_PEND per supervisor event. -/
theorem pipelineTickMovesTheSupervisor : Obligations.PipelineTickMovesTheSupervisor := by
  unfold Obligations.PipelineTickMovesTheSupervisor
  intro s hs
  have h : checksConfig (commitTick s) := hs.state
  have hack := pipeline_ack_iff h (commitTick_ack s)
  refine ⟨_, exec_tick_pipeline hs, pipeline_poweroff_iff h, pipeline_enabled_iff h, pipeline_state_cases h,
    pipeline_enable_iff _, hack, ?enabled, ?monDis, ?poweroff, pipeline_poStep h⟩
  case enabled =>
    rw [pipeline_irqPend_bit h (by decide), hack]
    simp [eventBit]
  case monDis =>
    rw [pipeline_irqPend_bit h (by decide)]
    simp [eventBit]
  case poweroff =>
    rw [pipeline_irqPend_bit h (by decide)]
    simp [eventBit]

end Sys2Proof.Machine
end

section
/-! PROOFS of 44_serial_link.md. What stage S1 takes from the serial link, what stage S8 sends, and that no other stage
writes what either left: the events, RXBUF and TXBUF, the command pair and the timeout machine. -/

namespace Sys2Proof.Machine

/-- The commit changes nothing that the verdict reads. -/
theorem verdict_commitTick (s : State) : verdict (commitTick s) = verdict s := rfl

/-! ## S1: the two paths of SerialReceive (R351 to R353) -/

theorem serialReceive_of_accept {s : State} (h : verdict s = .accept) : serialReceive s = acceptFrame s := by
  simp only [serialReceive, h]

/-- R353: a missing frame counts whatever the verdict, and a resync asks for the restart first. -/
theorem serialReceive_of_missing {s : State} (h : verdict s ≠ .accept) :
    serialReceive s = countMissing (if verdict s = .resync then requestResync s else s) := by
  unfold serialReceive
  cases hv : verdict s with
  | accept => exact absurd hv h
  | resync => rfl
  | stale => rfl
  | badsum => rfl

/-- What a missing frame counts on: the resync request changes RX_RESTART and its event only. -/
theorem der_ite_requestResync (s : State) : (if verdict s = .resync then requestResync s else s).der = s.der := by
  split_ifs <;> simp

theorem cfg_ite_requestResync (s : State) : (if verdict s = .resync then requestResync s else s).cfg = s.cfg := by
  split_ifs <;> simp

theorem mem_ite_requestResync (s : State) : (if verdict s = .resync then requestResync s else s).mem = s.mem := by
  split_ifs <;> simp

/-- LINK_LOST is due: this missing frame is the one that reaches SER_TIMEOUT (R353). -/
def losesLink (s : State) : Bool :=
  !s.der.linkTimeout && decide (s.cfg.serTimeout.toNat ≤ (serCntNext s.der.serCnt).toNat)

theorem serialReceive_missing_serCnt {s : State} (h : verdict s ≠ .accept) :
    (serialReceive s).der.serCnt = serCntNext s.der.serCnt := by
  rw [serialReceive_of_missing h, countMissing_serCnt, der_ite_requestResync]

theorem serialReceive_missing_linkTimeout {s : State} (h : verdict s ≠ .accept) :
    (serialReceive s).der.linkTimeout =
      (s.der.linkTimeout || decide (s.cfg.serTimeout.toNat ≤ (serCntNext s.der.serCnt).toNat)) := by
  rw [serialReceive_of_missing h, countMissing_linkTimeout, der_ite_requestResync, cfg_ite_requestResync]

theorem serialReceive_missing_cmd1 {s : State} (h : verdict s ≠ .accept) :
    (serialReceive s).der.cmd1 = s.der.cmd1 := by
  rw [serialReceive_of_missing h, countMissing_cmd1, der_ite_requestResync]

theorem serialReceive_missing_cmd2 {s : State} (h : verdict s ≠ .accept) :
    (serialReceive s).der.cmd2 = s.der.cmd2 := by
  rw [serialReceive_of_missing h, countMissing_cmd2, der_ite_requestResync]

theorem serialReceive_missing_mem {s : State} (h : verdict s ≠ .accept) : (serialReceive s).mem = s.mem := by
  rw [serialReceive_of_missing h, countMissing_mem, mem_ite_requestResync]

theorem serialReceive_missing_rxRestart {s : State} (h : verdict s ≠ .accept) :
    (serialReceive s).out.rxRestart = (decide (verdict s = .resync) || s.out.rxRestart) := by
  rw [serialReceive_of_missing h, countMissing_out]
  split_ifs with hresync
  · simp [requestResync_rxRestart, hresync]
  · simp [hresync]

/-! ## S1: its events, one bit of IRQ_PEND at a time -/

theorem raiseEventIf_irqPend_getLsbD (c : Bool) (e : IrqEvent) (s : State) (k : Nat) :
    (raiseEventIf c e s).ctl.irqPend.getLsbD k = (s.ctl.irqPend.getLsbD k || (c && (eventBit e).getLsbD k)) := by
  cases c with
  | false => simp [raiseEventIf]
  | true => simp [raiseEventIf, raiseEvent_irqPend_bit]

theorem serialReceive_accept_irqPend_bit {s : State} (h : verdict s = .accept) (k : Nat) :
    (serialReceive s).ctl.irqPend.getLsbD k =
      (s.ctl.irqPend.getLsbD k || (s.der.linkTimeout && (eventBit .linkOk).getLsbD k) ||
        (eventBit .frameOk).getLsbD k) := by
  rw [serialReceive_of_accept h, acceptFrame, raiseEvent_irqPend_bit, raiseEventIf_irqPend_getLsbD]

theorem countMissing_irqPend_getLsbD (s : State) (k : Nat) :
    (countMissing s).ctl.irqPend.getLsbD k =
      (s.ctl.irqPend.getLsbD k || (losesLink s && (eventBit .linkLost).getLsbD k)) := by
  rw [countMissing, raiseEventIf_irqPend_getLsbD, losesLink, Bool.and_comm (!_)]

theorem serialReceive_missing_irqPend_bit {s : State} (h : verdict s ≠ .accept) (k : Nat) :
    (serialReceive s).ctl.irqPend.getLsbD k =
      (s.ctl.irqPend.getLsbD k || (decide (verdict s = .resync) && (eventBit .resync).getLsbD k) ||
        (losesLink s && (eventBit .linkLost).getLsbD k)) := by
  rw [serialReceive_of_missing h, countMissing_irqPend_getLsbD, losesLink, der_ite_requestResync, cfg_ite_requestResync,
    ← losesLink]
  congr 1
  split_ifs with hresync
  · simp [requestResync, raiseEvent_irqPend_bit, hresync]
  · simp [hresync]

/-! ## S1: the command source (R265) -/

theorem takeCommands_of_serial {s : State} (h : s.cfg.ctrl.getLsbD 0 = true) : takeCommands s = serialReceive s :=
  if_pos h

theorem takeCommands_of_ports {s : State} (h : s.cfg.ctrl.getLsbD 0 = false) :
    takeCommands s =
      { s with der := { s.der with cmd1 := toCommand s.cfg s.snap.steer, cmd2 := toCommand s.cfg s.snap.speed } } := by
  simp only [takeCommands, ctrlSrc, h, Bool.false_eq_true, if_false]

theorem commTimeout_serialReceive {s : State} (h : s.cfg.ctrl.getLsbD 0 = true) :
    commTimeout (serialReceive s) = (serialReceive s).der.linkTimeout := by
  simp [commTimeout, ctrlSrc, h]

/-- S1 writes memory in one place only: the start marker of a frame it accepts (R352). -/
theorem takeCommands_mem_cases (s : State) :
    (takeCommands s).mem = s.mem ∨ (takeCommands s).mem = writeHalf s.mem rxBase s.cfg.consumedSent := by
  cases hsrc : s.cfg.ctrl.getLsbD 0 with
  | false =>
    rw [takeCommands_of_ports hsrc]
    exact .inl rfl
  | true =>
    rw [takeCommands_of_serial hsrc]
    by_cases hv : verdict s = .accept
    · rw [serialReceive_of_accept hv, acceptFrame_mem]
      exact .inr rfl
    · exact .inl (serialReceive_missing_mem hv)

theorem takeCommands_mem_wf {s : State} (h : s.mem.wf) : (takeCommands s).mem.wf := by
  rcases takeCommands_mem_cases s with e | e <;> rw [e]
  · exact h
  · exact writeHalf_wf _ _ h

theorem txByte_takeCommands {s : State} (h : s.mem.wf) (i : Nat) : txByte (takeCommands s) i = txByte s i := by
  rcases takeCommands_mem_cases s with e | e <;> rw [txByte, e]
  · rfl
  · rw [readByte_writeHalf h, if_neg (by simp only [txBase, rxBase]; omega),
      if_neg (by simp only [txBase, rxBase]; omega)]
    rfl

/-- FB_SENT is no event of S1. -/
theorem takeCommands_fbSent_bit (s : State) :
    (takeCommands s).ctl.irqPend.getLsbD 9 = s.ctl.irqPend.getLsbD 9 := by
  cases hsrc : s.cfg.ctrl.getLsbD 0 with
  | false => rw [takeCommands_of_ports hsrc]
  | true =>
    rw [takeCommands_of_serial hsrc]
    by_cases hv : verdict s = .accept
    · rw [serialReceive_accept_irqPend_bit hv]
      simp [eventBit]
    · rw [serialReceive_missing_irqPend_bit hv]
      simp [eventBit]

/-! ## S7 and S8: whether a frame is sent (R314, R360) -/

/-- The ten fields of the feedback frame, checksum included (R361). -/
def frameFields (s : State) : List Half := feedbackFields s ++ [xorFields (feedbackFields s)]

theorem buildFrame_eq (s : State) : buildFrame s = { s with mem := writeFields s.mem txBase (frameFields s) } := rfl

/-- The condition of R360: enabled, the cadence reached, the transport idle. -/
def feedbackReady (s : State) : Bool :=
  ctrlFben s.cfg.ctrl && decide (fbDivNext s.der.fbDiv = 0#8) && !s.snap.txBusy

theorem feedback_of_ready {s : State} (h : feedbackReady s = true) :
    feedback s =
      raiseEvent .fbSent
        { s with
          der := { s.der with fbDiv := fbDivNext s.der.fbDiv },
          out := { s.out with txStart := true },
          mem := writeFields s.mem txBase (frameFields s) } := by
  have hfields : frameFields { s with der := { s.der with fbDiv := fbDivNext s.der.fbDiv } } = frameFields s := rfl
  rw [feedbackReady] at h
  rw [feedback, if_pos h, buildFrame_eq, hfields]

theorem feedback_of_not_ready {s : State} (h : feedbackReady s = false) :
    feedback s = { s with der := { s.der with fbDiv := fbDivNext s.der.fbDiv } } :=
  if_neg (by rw [feedbackReady] at h; simp [h])

@[simp] theorem frameFields_countInactivity (s : State) : frameFields (countInactivity s) = frameFields s := by
  simp [frameFields, feedbackFields]

@[simp] theorem feedbackReady_countInactivity (s : State) : feedbackReady (countInactivity s) = feedbackReady s := by
  simp [feedbackReady]

/-- Stages S7 and S8 on this state send a frame: no power-off entry (R314), and R360's own condition. -/
def sendsFrame (s : State) : Bool := !inactivityOver (countInactivity s) && feedbackReady s

/-- Everything S7 and S8 can be: S8 sends a frame, or S7 enters POWEROFF, or S8 only counts. -/
theorem stagesInactivityFeedback_cases (s : State) :
    (sendsFrame s = true ∧ stagesInactivityFeedback s =
      raiseEvent .fbSent
        { countInactivity s with
          der := { (countInactivity s).der with fbDiv := fbDivNext s.der.fbDiv },
          out := { s.out with txStart := true },
          mem := writeFields s.mem txBase (frameFields s) }) ∨
    (sendsFrame s = false ∧ stagesInactivityFeedback s = enterPowerOff (countInactivity s)) ∨
    (sendsFrame s = false ∧ stagesInactivityFeedback s =
      { countInactivity s with der := { (countInactivity s).der with fbDiv := fbDivNext s.der.fbDiv } }) := by
  cases hover : inactivityOver (countInactivity s) with
  | true => exact .inr (.inl ⟨by simp [sendsFrame, hover], by simp [stagesInactivityFeedback, hover]⟩)
  | false =>
    cases hready : feedbackReady s with
    | true =>
      refine .inl ⟨by simp [sendsFrame, hover, hready], ?_⟩
      rw [stagesInactivityFeedback, hover, if_neg Bool.false_ne_true, feedback_of_ready (by simpa using hready)]
      simp
    | false =>
      refine .inr (.inr ⟨by simp [sendsFrame, hready], ?_⟩)
      rw [stagesInactivityFeedback, hover, if_neg Bool.false_ne_true, feedback_of_not_ready (by simpa using hready)]
      simp

theorem stagesInactivityFeedback_mem (s : State) :
    (stagesInactivityFeedback s).mem =
      if sendsFrame s = true then writeFields s.mem txBase (frameFields s) else s.mem := by
  rcases stagesInactivityFeedback_cases s with ⟨hsend, e⟩ | ⟨hsend, e⟩ | ⟨hsend, e⟩ <;> simp [e, hsend]

theorem stagesInactivityFeedback_txStart (s : State) :
    (stagesInactivityFeedback s).out.txStart = (sendsFrame s || s.out.txStart) := by
  rcases stagesInactivityFeedback_cases s with ⟨hsend, e⟩ | ⟨hsend, e⟩ | ⟨hsend, e⟩ <;> simp [e, hsend]

theorem stagesInactivityFeedback_fbSent_bit {k : Nat} (h : (eventBit .poweroff).getLsbD k = false) (s : State) :
    (stagesInactivityFeedback s).ctl.irqPend.getLsbD k =
      (s.ctl.irqPend.getLsbD k || (sendsFrame s && (eventBit .fbSent).getLsbD k)) := by
  rcases stagesInactivityFeedback_cases s with ⟨hsend, e⟩ | ⟨hsend, e⟩ | ⟨hsend, e⟩
  · simp [e, hsend, raiseEvent_irqPend_bit]
  · simp [e, hsend, enterPowerOff, raiseEvent_irqPend_bit, h]
  · simp [e, hsend]

theorem stagesInactivityFeedback_fbDiv (s : State) :
    (stagesInactivityFeedback s).der.fbDiv =
      if inactivityOver (countInactivity s) = true then s.der.fbDiv else fbDivNext s.der.fbDiv := by
  simp only [stagesInactivityFeedback]
  split_ifs <;> simp [feedback_fbDiv]

/-! ## S8 through the whole pipeline (R360, R361) -/

@[simp] theorem monitored_mem (s : State) : (monitored s).mem = (takeCommands s).mem := by
  simp [monitored, stagesSourceCondition, commandSource]
@[simp] theorem monitored_fbDiv (s : State) : (monitored s).der.fbDiv = s.der.fbDiv := by simp [monitored]
@[simp] theorem monitored_txStart (s : State) : (monitored s).out.txStart = s.out.txStart := by simp [monitored]
@[simp] theorem monitored_snap (s : State) : (monitored s).snap = s.snap := by simp [monitored]

/-- R361: the frame's values are those of the state after the TICK, for S8 and the end of tick write none of them. -/
theorem frameFields_monitored (s : State) : frameFields (monitored s) = frameFields (pipeline s) := by
  simp [frameFields, feedbackFields, pipeline_eq_endOfTick]

theorem pipeline_fbDiv {s : State} (h : checksConfig s) :
    (pipeline s).der.fbDiv = if (pipeline s).sup.state = .poweroff then s.der.fbDiv else fbDivNext s.der.fbDiv := by
  simp only [pipeline_poweroff_iff h, ← inactivityOver_monitored]
  simp [pipeline_eq_endOfTick, stagesInactivityFeedback_fbDiv]

/-- The condition of R360 can be asked of the state after the TICK. -/
theorem sendsFrame_monitored_iff {s : State} (h : checksConfig s) :
    sendsFrame (monitored s) = true ↔
      (pipeline s).sup.state ≠ .poweroff ∧ s.cfg.ctrl.getLsbD 1 = true ∧ (pipeline s).der.fbDiv = 0#8 ∧
        s.snap.txBusy = false := by
  have hoff : inactivityOver (countInactivity (monitored s)) = true ↔ (pipeline s).sup.state = .poweroff := by
    rw [inactivityOver_monitored, pipeline_poweroff_iff h]
  simp only [sendsFrame, feedbackReady, Bool.and_eq_true, Bool.not_eq_true', decide_eq_true_eq, ← Bool.not_eq_true,
    hoff, monitored_cfg, monitored_fbDiv, monitored_snap, and_assoc]
  refine and_congr_right fun hon => ?_
  rw [pipeline_fbDiv h, if_neg hon]
  rfl

theorem pipeline_mem (s : State) :
    (pipeline s).mem =
      if sendsFrame (monitored s) = true then writeFields (takeCommands s).mem txBase (frameFields (pipeline s))
      else (takeCommands s).mem := by
  rw [← frameFields_monitored]
  simp [pipeline_eq_endOfTick, stagesInactivityFeedback_mem]

theorem pipeline_txStart (s : State) : (pipeline s).out.txStart = (sendsFrame (monitored s) || s.out.txStart) := by
  simp [pipeline_eq_endOfTick, stagesInactivityFeedback_txStart]

/-- RXBUF after a pipeline TICK is as S1 left it: the frame S8 builds lies in TXBUF (R101). -/
theorem rxByte_pipeline {s : State} (h : s.mem.wf) {i : Nat} (hi : i < 8) :
    rxByte (pipeline s) i = rxByte (takeCommands s) i := by
  rw [rxByte, pipeline_mem]
  split_ifs
  · exact readByte_writeFields_other _ (takeCommands_mem_wf h) (.inl (by simp only [rxBase, txBase]; omega))
  · rfl

/-- The frame that S8 sends, field by field in TXBUF (R361). -/
theorem txHalf_pipeline {s : State} (h : s.mem.wf) (hsend : sendsFrame (monitored s) = true) {k : Nat} (hk : k < 10) :
    txByte (pipeline s) (2 * k + 1) ++ txByte (pipeline s) (2 * k) = (frameFields (pipeline s)).getD k 0#16 := by
  have hlen : k < (frameFields (pipeline s)).length := hk
  calc txByte (pipeline s) (2 * k + 1) ++ txByte (pipeline s) (2 * k)
      = readHalf (pipeline s).mem (txBase + 2 * k) := rfl
    _ = readHalf (writeFields (takeCommands s).mem txBase (frameFields (pipeline s))) (txBase + 2 * k) := by
        rw [pipeline_mem, if_pos hsend]
    _ = (frameFields (pipeline s))[k] := readHalf_writeFields _ (takeCommands_mem_wf h) txBase k hlen
    _ = (frameFields (pipeline s)).getD k 0#16 := List.getElem_eq_getD _

theorem txByte_pipeline_of_silent {s : State} (h : s.mem.wf) (hsend : ¬sendsFrame (monitored s) = true) (i : Nat) :
    txByte (pipeline s) i = txByte s i := by
  rw [← txByte_takeCommands h, txByte, pipeline_mem, if_neg hsend]
  rfl

/-- The ten fields as R361 lists them. -/
theorem frameFields_eq (s : State) :
    frameFields s =
      [s.cfg.startSent, s.der.cmd1, s.der.cmd2, s.out.tgtR, s.out.tgtL, s.snap.measR, s.snap.measL, s.snap.bat,
        s.der.tempDegc,
        s.cfg.startSent ^^^ s.der.cmd1 ^^^ s.der.cmd2 ^^^ s.out.tgtR ^^^ s.out.tgtL ^^^ s.snap.measR ^^^
          s.snap.measL ^^^ s.snap.bat ^^^ s.der.tempDegc] := by
  simp [frameFields, feedbackFields, xorFields]

/-! ## The events of S1 and S8 through the whole pipeline -/

/-- What the supervisor raises in S6, S7 and at the end of tick. -/
def supervisorEvents : BitVec 11 := eventBit .monDis ||| eventBit .poweroff ||| eventBit .enabled

/-- An event that is not the supervisor's is pending after a pipeline TICK when S1 left it so or S8 raised it. -/
theorem pipeline_irqPend_serial_bit {k : Nat} (h : supervisorEvents.getLsbD k = false) (s : State) :
    (pipeline s).ctl.irqPend.getLsbD k =
      ((takeCommands s).ctl.irqPend.getLsbD k || (sendsFrame (monitored s) && (eventBit .fbSent).getLsbD k)) := by
  simp only [supervisorEvents, BitVec.getLsbD_or, Bool.or_eq_false_iff] at h
  obtain ⟨⟨hmon, hoff⟩, hen⟩ := h
  have hend (u : State) (c : Bool) : (endOfTick c u).ctl.irqPend.getLsbD k = u.ctl.irqPend.getLsbD k := by
    rw [Bool.eq_iff_iff, endOfTick_irqPend_bit]
    simp [hen]
  have hdis (u : State) : (emergencyDisable u).ctl.irqPend.getLsbD k = u.ctl.irqPend.getLsbD k := by
    rw [Bool.eq_iff_iff, emergencyDisable_irqPend_bit]
    simp [hmon]
  rw [pipeline_eq_endOfTick, hend, stagesInactivityFeedback_fbSent_bit hoff, monitored_eq_selectTone, selectTone_ctl,
    hdis, measured_ctl]
  rfl

/-- Settles O38: one condition, asked of the state after the TICK, decides the pulse, the event and TXBUF. -/
theorem feedbackFrameIsBuiltWhenDue : Obligations.FeedbackFrameIsBuiltWhenDue := by
  unfold Obligations.FeedbackFrameIsBuiltWhenDue
  intro s hs hwf
  have hc : checksConfig (commitTick s) := hs.state
  have hwf' : (commitTick s).mem.wf := hwf
  have hbit := pipeline_irqPend_serial_bit (k := 9) (by decide) (commitTick s)
  rw [takeCommands_fbSent_bit] at hbit
  refine ⟨_, exec_tick_pipeline hs, ?cadence, fun hon hfben hdiv hidle => ?due, fun hnot => ?silent⟩
  case cadence =>
    rw [pipeline_fbDiv hc, apply_ite BitVec.toNat, fbDivNext_toNat]
    rfl
  case due =>
    have hsend := (sendsFrame_monitored_iff hc).2 ⟨hon, hfben, hdiv, hidle⟩
    refine ⟨by rw [pipeline_txStart, hsend, Bool.true_or], by rw [hbit, hsend]; simp [eventBit], fun k hk => ?_⟩
    rw [txHalf_pipeline hwf' hsend hk, frameFields_eq, pipeline_snap, pipeline_cfg]
    rfl
  case silent =>
    have hsend : ¬sendsFrame (monitored (commitTick s)) = true := by
      rw [sendsFrame_monitored_iff hc]
      rintro ⟨hon, hfben, hdiv, hidle⟩
      rcases hnot with h | h | h | h
      · exact hon h
      · exact Bool.false_ne_true (h.symm.trans hfben)
      · exact h hdiv
      · exact Bool.false_ne_true (hidle.symm.trans h)
    refine ⟨?_, ?_, fun i _ => txByte_pipeline_of_silent hwf' hsend i⟩
    · rw [pipeline_txStart, Bool.eq_false_iff.2 hsend]
      rfl
    · rw [hbit, Bool.eq_false_iff.2 hsend]
      simp

/-! ## S1 through the whole pipeline (R265, R352, R353) -/

theorem pipeline_cmd1 (s : State) :
    (pipeline s).der.cmd1 = if commTimeout (takeCommands s) then 0#16 else (takeCommands s).der.cmd1 := by
  simp [pipeline, stagesSourceCondition, commandSource, applyTimeout_cmd1]

theorem pipeline_cmd2 (s : State) :
    (pipeline s).der.cmd2 = if commTimeout (takeCommands s) then 0#16 else (takeCommands s).der.cmd2 := by
  simp [pipeline, stagesSourceCondition, commandSource, applyTimeout_cmd2]

theorem pipeline_ctrlOpen (s : State) : (pipeline s).out.ctrlOpen = commTimeout (takeCommands s) := by
  simp [pipeline, stagesSourceCondition, commandSource, applyTimeout_ctrlOpen]

theorem pipeline_serCnt (s : State) : (pipeline s).der.serCnt = (takeCommands s).der.serCnt := by
  simp [pipeline, stagesSourceCondition, commandSource]

theorem pipeline_linkTimeout (s : State) : (pipeline s).der.linkTimeout = (takeCommands s).der.linkTimeout := by
  simp [pipeline, stagesSourceCondition, commandSource]

theorem pipeline_rxRestart (s : State) : (pipeline s).out.rxRestart = (takeCommands s).out.rxRestart := by
  simp [pipeline, stagesSourceCondition, commandSource]

/-- The events of S1 stay as S1 left them. -/
theorem pipeline_irqPend_link_bit {k : Nat} (h : (supervisorEvents ||| eventBit .fbSent).getLsbD k = false)
    (s : State) : (pipeline s).ctl.irqPend.getLsbD k = (takeCommands s).ctl.irqPend.getLsbD k := by
  rw [BitVec.getLsbD_or, Bool.or_eq_false_iff] at h
  obtain ⟨hsup, hsent⟩ := h
  rw [pipeline_irqPend_serial_bit hsup, hsent, Bool.and_false, Bool.or_false]

theorem pipeline_accept_irqPend_bit {s : State} (hsrc : s.cfg.ctrl.getLsbD 0 = true) (hacc : verdict s = .accept)
    {k : Nat} (h : (supervisorEvents ||| eventBit .fbSent).getLsbD k = false) :
    (pipeline s).ctl.irqPend.getLsbD k =
      (s.ctl.irqPend.getLsbD k || (s.der.linkTimeout && (eventBit .linkOk).getLsbD k) ||
        (eventBit .frameOk).getLsbD k) := by
  rw [pipeline_irqPend_link_bit h, takeCommands_of_serial hsrc, serialReceive_accept_irqPend_bit hacc]

theorem pipeline_missing_irqPend_bit {s : State} (hsrc : s.cfg.ctrl.getLsbD 0 = true) (hmiss : verdict s ≠ .accept)
    {k : Nat} (h : (supervisorEvents ||| eventBit .fbSent).getLsbD k = false) :
    (pipeline s).ctl.irqPend.getLsbD k =
      (s.ctl.irqPend.getLsbD k || (decide (verdict s = .resync) && (eventBit .resync).getLsbD k) ||
        (losesLink s && (eventBit .linkLost).getLsbD k)) := by
  rw [pipeline_irqPend_link_bit h, takeCommands_of_serial hsrc, serialReceive_missing_irqPend_bit hmiss]

/-- The start marker after the accept path (R352). -/
theorem rxStart_acceptFrame {s : State} (h : s.mem.wf) :
    rxByte (acceptFrame s) 1 ++ rxByte (acceptFrame s) 0 = s.cfg.consumedSent := by
  have hread := readHalf_writeHalf h rxBase s.cfg.consumedSent
  rw [← acceptFrame_mem] at hread
  exact hread

theorem rxByte_acceptFrame_other {s : State} (h : s.mem.wf) {i : Nat} (hi : 2 ≤ i) :
    rxByte (acceptFrame s) i = rxByte s i := by
  rw [rxByte, acceptFrame_mem, readByte_writeHalf h, if_neg (by omega), if_neg (by omega)]
  rfl

/-- Settles O34: each field from the accept path, which the end of the timeout leaves unpinned. -/
theorem acceptedFrameIsTakenAndConsumed : Obligations.AcceptedFrameIsTakenAndConsumed := by
  unfold Obligations.AcceptedFrameIsTakenAndConsumed
  intro s hs hwf hsrc hacc
  have hwf' : (commitTick s).mem.wf := hwf
  have hacc' : verdict (commitTick s) = .accept := by rw [verdict_commitTick, hacc]
  have hsrc' : (commitTick s).cfg.ctrl.getLsbD 0 = true := hsrc
  have htake : takeCommands (commitTick s) = acceptFrame (commitTick s) := by
    rw [takeCommands_of_serial hsrc', serialReceive_of_accept hacc']
  have htime : commTimeout (takeCommands (commitTick s)) = false := by
    rw [takeCommands_of_serial hsrc', commTimeout_serialReceive hsrc', serialReceive_of_accept hacc',
      acceptFrame_linkTimeout]
  refine ⟨_, exec_tick_pipeline hs, ?cmd1, ?cmd2, ?start, fun i hlo hhi => ?kept, ?serCnt, ?linkTimeout, ?rxRestart,
    ?ctrlOpen, ?frameOk, ?linkOk, ?linkLost, ?resync⟩
  case cmd1 =>
    rw [pipeline_cmd1, htime, htake, acceptFrame_cmd1]
    exact toCommand_toInt _ _ hs.range
  case cmd2 =>
    rw [pipeline_cmd2, htime, htake, acceptFrame_cmd2]
    exact toCommand_toInt _ _ hs.range
  case start =>
    rw [rxByte_pipeline hwf' (by decide), rxByte_pipeline hwf' (by decide), htake]
    exact rxStart_acceptFrame hwf'
  case kept =>
    rw [rxByte_pipeline hwf' hhi, htake]
    exact rxByte_acceptFrame_other hwf' hlo
  case serCnt => rw [pipeline_serCnt, htake, acceptFrame_serCnt]
  case linkTimeout => rw [pipeline_linkTimeout, htake, acceptFrame_linkTimeout]
  case rxRestart => rw [pipeline_rxRestart, htake, acceptFrame_out, commitTick_rxRestart]
  case ctrlOpen => rw [pipeline_ctrlOpen, htime]
  case frameOk | linkOk | linkLost | resync =>
    rw [pipeline_accept_irqPend_bit hsrc' hacc' (by decide)]
    simp [eventBit]

/-- Settles O35: each field from the counting path; the command pair from R265's pin on top of it. -/
theorem missingFrameCountsTowardTheTimeout : Obligations.MissingFrameCountsTowardTheTimeout := by
  unfold Obligations.MissingFrameCountsTowardTheTimeout
  intro s hs hwf hsrc hmiss
  have hwf' : (commitTick s).mem.wf := hwf
  have hmiss' : verdict (commitTick s) ≠ .accept := by rwa [verdict_commitTick]
  have hsrc' : (commitTick s).cfg.ctrl.getLsbD 0 = true := hsrc
  have htake := takeCommands_of_serial hsrc'
  have htime : commTimeout (takeCommands (commitTick s)) = (pipeline (commitTick s)).der.linkTimeout := by
    rw [pipeline_linkTimeout, htake, commTimeout_serialReceive hsrc']
  have hcnt : (pipeline (commitTick s)).der.serCnt = serCntNext s.der.serCnt := by
    rw [pipeline_serCnt, htake]
    exact serialReceive_missing_serCnt hmiss'
  have hlink : (pipeline (commitTick s)).der.linkTimeout =
      (s.der.linkTimeout || decide (s.cfg.serTimeout.toNat ≤ (pipeline (commitTick s)).der.serCnt.toNat)) := by
    rw [pipeline_linkTimeout, htake, hcnt]
    exact serialReceive_missing_linkTimeout hmiss'
  have hlost : losesLink (commitTick s) = (!s.der.linkTimeout && (pipeline (commitTick s)).der.linkTimeout) := by
    rw [hlink, hcnt, Bool.and_or_distrib_left, Bool.not_and_self, Bool.false_or]
    rfl
  refine ⟨_, exec_tick_pipeline hs, ?serCnt, hlink, ?linkLost, ?rxRestart, ?resync, ?frameOk, ?linkOk,
    fun i hi => ?kept, ?cmd1, ?cmd2, ?ctrlOpen⟩
  case serCnt => rw [hcnt, serCntNext_toNat]
  case linkLost =>
    rw [pipeline_missing_irqPend_bit hsrc' hmiss' (by decide), hlost]
    simp [eventBit]
  case rxRestart =>
    rw [pipeline_rxRestart, htake, serialReceive_missing_rxRestart hmiss', commitTick_rxRestart,
      Bool.or_false, decide_eq_true_eq, verdict_commitTick]
  case resync =>
    rw [pipeline_missing_irqPend_bit hsrc' hmiss' (by decide), verdict_commitTick]
    simp [eventBit]
  case frameOk | linkOk =>
    rw [pipeline_missing_irqPend_bit hsrc' hmiss' (by decide)]
    simp [eventBit]
  case kept =>
    rw [rxByte_pipeline hwf' hi, htake, rxByte, serialReceive_missing_mem hmiss']
    rfl
  case cmd1 =>
    rw [pipeline_cmd1, htime, htake, serialReceive_missing_cmd1 hmiss']
    rfl
  case cmd2 =>
    rw [pipeline_cmd2, htime, htake, serialReceive_missing_cmd2 hmiss']
    rfl
  case ctrlOpen => rw [pipeline_ctrlOpen, htime]

end Sys2Proof.Machine
end

section
/-! PROOFS of 60_exceptions.md. The interrupt line bit by bit; then R400's causes command by command, and that the body
of each command raises the first of them in the order of R401. -/

namespace Sys2Proof.Machine

/-! ## The interrupt line (R411) -/

theorem and_ne_zero_iff {n : Nat} (p q : BitVec n) :
    p &&& q ≠ 0#n ↔ ∃ k : Fin n, p.getLsbD k.val = true ∧ q.getLsbD k.val = true := by
  rw [← not_iff_not, not_not]
  constructor
  · rintro hzero ⟨k, hp, hq⟩
    have hbit := congrArg (BitVec.getLsbD · k.val) hzero
    simp only [BitVec.getLsbD_and, hp, hq, BitVec.getLsbD_zero, Bool.and_self, Bool.true_eq_false] at hbit
  · intro hnone
    refine BitVec.eq_of_getLsbD_eq fun k hk => ?_
    rw [BitVec.getLsbD_and, BitVec.getLsbD_zero, Bool.and_eq_false_iff, ← Bool.not_eq_true, ← Bool.not_eq_true,
      ← not_and_or]
    exact fun hbits => hnone ⟨⟨k, hk⟩, hbits⟩

theorem irq_iff (s : State) :
    irq s = true ↔ ∃ k : Fin 11, s.ctl.irqPend.getLsbD k.val = true ∧ s.ctl.irqEn.getLsbD k.val = true := by
  rw [irq, decide_eq_true_eq, and_ne_zero_iff]

/-- The bits of IRQ_EN after a write (R31). -/
theorem store_irqEn_bit (v : Word) (s : State) (k : Fin 11) :
    (store .irqEn v s).ctl.irqEn.getLsbD k.val = v.getLsbD k.val := by
  simp [store]

/-- The bits of IRQ_PEND after a write: a written 1 clears (R39). -/
theorem store_irqPend_bit (v : Word) (s : State) (k : Fin 11) :
    (store .irqPend v s).ctl.irqPend.getLsbD k.val = (s.ctl.irqPend.getLsbD k.val && !v.getLsbD k.val) := by
  simp [store, irqPendAfterWrite]

/-- Settles O54: the level's own rule, asked after each of the two writes through the bits it leaves. -/
theorem irqFollowsPendingAndEnable : Obligations.IrqFollowsPendingAndEnable := by
  unfold Obligations.IrqFollowsPendingAndEnable
  intro s v
  refine ⟨irq_iff s, ?enable, ?clear⟩
  case enable =>
    simp only [irq_iff, store_irqEn_bit]
    rfl
  case clear =>
    simp only [irq_iff, store_irqPend_bit, Bool.and_eq_true, Bool.not_eq_true', and_assoc]
    rfl

/-! ## The order of R401 -/

/-- An error is reported when its cause holds and no cause of the part of R401's list before it does. -/
theorem reports_of_first {e : ErrorKind} {i : Instr} {s : State} (h : errorCause e i s)
    (hfirst : ∀ d ∈ errorPriority.takeWhile (· ≠ e), ¬errorCause d i s) : reports e i s :=
  ⟨h, _, (errorPriority.dropWhile (· ≠ e)).tail, by cases e <;> rfl, hfirst⟩

/-- Where one of two splits of a list comes first, its element is the other's or stands before it. -/
theorem eq_or_mem_of_cons_eq_append_cons {α : Type} {a b : α} {mid l l' : List α} (h : a :: l = mid ++ b :: l') :
    a = b ∨ a ∈ mid := by
  rcases List.cons_eq_append_iff.1 h with ⟨-, h⟩ | ⟨mid', rfl, -⟩
  · exact .inl (List.cons.inj h).1.symm
  · exact .inr List.mem_cons_self

/-- No two errors are reported: the causes before either fail, so neither stands before the other. -/
theorem reports_unique {d e : ErrorKind} {i : Instr} {s : State} (hd : reports d i s) (he : reports e i s) : d = e := by
  obtain ⟨hcd, pre, post, hsplit, hpre⟩ := hd
  obtain ⟨hce, pre', post', hsplit', hpre'⟩ := he
  rw [hsplit, List.append_eq_append_iff] at hsplit'
  rcases hsplit' with ⟨mid, rfl, h⟩ | ⟨mid, rfl, h⟩
  · exact (eq_or_mem_of_cons_eq_append_cons h).resolve_right fun hmem =>
      hpre' d (List.mem_append_right pre hmem) hcd
  · exact ((eq_or_mem_of_cons_eq_append_cons h).resolve_right fun hmem =>
      hpre e (List.mem_append_right pre' hmem) hce).symm

theorem not_reports_of_errorFree {i : Instr} {s : State} (h : errorFree i s) (e : ErrorKind) : ¬reports e i s :=
  fun hr => h e hr.1

/-- In HALTED every command reports E_HALTED (R404): nothing stands before it in the list. -/
theorem reports_halted {s : State} (h : s.sup.state = .halted) (i : Instr) : reports .halted i s :=
  reports_of_first (.inl h) (by simp [errorPriority])

/-! ## R400's table by command, outside HALTED, in the terms of the model's checks -/

/-- The commands that R400 names in no row but E_HALTED's. -/
def raisesNoError : Instr → Bool
  | .nop | .lpf16 .. | .lpf32 .. | .sat16 .. | .xor16 .. | .li .. | .lui .. | .mov .. => true
  | _ => false

/-- The registers that STR may not write are those of class RO and CMD (R252). -/
theorem isWritable_eq_false_iff (r : HostReg) : isWritable r = false ↔ accessOf r = .ro ∨ accessOf r = .cmd := by
  unfold isWritable
  cases accessOf r <;> decide

theorem badRange_iff (s : State) : badRange s = true ↔ s.cfg.cmdMax.toInt < s.cfg.cmdMin.toInt := decide_eq_true_iff

/-- R261's three causes of E_BADCFG. -/
theorem badTickConfig_iff (s : State) :
    badTickConfig s = true ↔
      s.cfg.cmdMax.toInt < s.cfg.cmdMin.toInt ∨ s.cfg.startSent = s.cfg.consumedSent ∨
        s.cfg.ctrl.extractLsb' 3 2 = 3#2 := by
  simp only [badTickConfig, Bool.or_eq_true, badRange_iff, decide_eq_true_eq, or_assoc]
  rfl

section Table

variable {s : State} (h : s.sup.state ≠ .halted) (e : ErrorKind)
include h

theorem errorFree_of_raisesNoError {i : Instr} (hi : raisesNoError i = true) : errorFree i s := by
  intro e
  cases i with
  | nop | lpf16 | lpf32 | sat16 | xor16 | li | lui | mov => cases e <;> simp [errorCause, h]
  | _ => exact absurd hi Bool.false_ne_true

theorem errorCause_rl16 (d a b : Reg) :
    errorCause e (.rl16 d a b) s ↔ e = .rateNeg ∧ s16 (lowHalf (getReg s b)) < 0 := by
  cases e <;> simp [errorCause, h, s16, lowHalf]

theorem errorCause_mixr (d a b c : Reg) : errorCause e (.mixr d a b c) s ↔ e = .badCfg ∧ badRange s = true := by
  cases e <;> simp [errorCause, h, badRange_iff]

theorem errorCause_mixl (d a b c : Reg) : errorCause e (.mixl d a b c) s ↔ e = .badCfg ∧ badRange s = true := by
  cases e <;> simp [errorCause, h, badRange_iff]

theorem errorCause_frmchk (r : Reg) :
    errorCause e (.frmchk r) s ↔
      e = .cfgUnset ∧ (!(isWritten s .startSent && isWritten s .consumedSent)) = true ∨
        e = .badCfg ∧ s.cfg.startSent = s.cfg.consumedSent := by
  cases e <;> simp [errorCause, h, isWritten, MustReg.index]

theorem errorCause_ldr (r : Reg) (off : Offset) :
    errorCause e (.ldr r off) s ↔ e = .align ∧ isAligned off = false ∨ e = .noReg ∧ hostRegAt off = none := by
  cases e <;> simp [errorCause, h, isAligned]

theorem errorCause_str (r : Reg) (off : Offset) :
    errorCause e (.str r off) s ↔
      e = .align ∧ isAligned off = false ∨ e = .noReg ∧ hostRegAt off = none ∨
        e = .ro ∧ ∃ x, hostRegAt off = some x ∧ isWritable x = false := by
  cases e <;> simp [errorCause, h, isAligned, isWritable_eq_false_iff]

theorem errorCause_swreset : errorCause e .swreset s ↔ e = .halted ∧ s.sup.state = .poweroff := by
  cases e <;> simp [errorCause, h]

theorem errorCause_tick :
    errorCause e .tick s ↔
      isPipeline s = true ∧
        (e = .cfgUnset ∧ configured s = false ∨ e = .badCfg ∧ badTickConfig s = true ∨
          e = .rateNeg ∧ s16 s.cfg.rate < 0) := by
  cases e <;> simp [errorCause, h, checksConfig, isPipeline, configured, badTickConfig_iff, s16]

end Table

/-! ## The body of each command against the table -/

/-- What a command's body has to be: the error it ends in is the one reported, and a body that completes met no cause
and, STR and SWRESET apart, left the error record. -/
def AnswersTable (i : Instr) (s : State) : Except ErrorKind State → Prop
  | .error e => reports e i s
  | .ok t => errorFree i s ∧
      ((∀ r off, i ≠ .str r off) → i ≠ .swreset → t.ctl.status = s.ctl.status ∧ t.ctl.errCmd = s.ctl.errCmd)

/-- A body that checks for one error and goes on otherwise. -/
theorem answersTable_ite {c : Prop} [Decidable c] {i : Instr} {s : State} {e : ErrorKind}
    {body : Except ErrorKind State} (herr : c → reports e i s) (hgo : ¬c → AnswersTable i s body) :
    AnswersTable i s (if c then .error e else body) := by
  split_ifs with hc
  · exact herr hc
  · exact hgo hc

/-- A body whose one check is for the one cause the table gives the command. -/
theorem answersTable_of_oneCheck {c : Prop} [Decidable c] {i : Instr} {s t : State} {e : ErrorKind}
    (hcause : ∀ d, errorCause d i s ↔ d = e ∧ c)
    (hkept : (∀ r off, i ≠ .str r off) → i ≠ .swreset → t.ctl.status = s.ctl.status ∧ t.ctl.errCmd = s.ctl.errCmd) :
    AnswersTable i s (if c then .error e else .ok t) := by
  refine answersTable_ite (fun hc => reports_of_first ((hcause e).2 ⟨rfl, hc⟩) fun d hd hcd => ?_)
    fun hc => ⟨fun d hd => hc ((hcause d).1 hd).2, hkept⟩
  have hne : d ≠ e := by simpa using List.mem_takeWhile_imp hd
  exact hne ((hcause d).1 hcd).1

/-- A body that completes in a state with the same control registers. -/
theorem answersTable_ok {i : Instr} {s t : State} (hfree : errorFree i s) (hctl : t.ctl = s.ctl) :
    AnswersTable i s (.ok t) :=
  ⟨hfree, fun _ _ => hctl ▸ ⟨rfl, rfl⟩⟩

theorem namedReg_eq_ok_iff (off : Offset) (x : HostReg) :
    namedReg off = .ok x ↔ isAligned off = true ∧ hostRegAt off = some x := by
  unfold namedReg
  cases isAligned off <;> cases hostRegAt off <;> simp

/-- LDR's and STR's common checks: alignment first, then the mapping (R248, R250). -/
theorem namedReg_eq_error_iff (off : Offset) (e : ErrorKind) :
    namedReg off = .error e ↔
      e = .align ∧ isAligned off = false ∨ e = .noReg ∧ isAligned off = true ∧ hostRegAt off = none := by
  unfold namedReg
  cases isAligned off <;> cases hostRegAt off <;> simp [eq_comm]

/-- The common checks of LDR and STR are made in the order of R401. -/
theorem reports_of_namedReg_error {s : State} (h : s.sup.state ≠ .halted) {i : Instr} {r : Reg} {off : Offset}
    {e : ErrorKind} (hi : i = .ldr r off ∨ i = .str r off) (hn : namedReg off = .error e) : reports e i s := by
  rcases (namedReg_eq_error_iff off e).1 hn with ⟨rfl, hal⟩ | ⟨rfl, hal, hreg⟩
  · exact reports_of_first ⟨r, off, hi, by simpa [isAligned] using hal⟩
      (by rcases hi with rfl | rfl <;> simp [errorPriority, errorCause_ldr h, errorCause_str h])
  · exact reports_of_first ⟨r, off, hi, hreg⟩
      (by rcases hi with rfl | rfl <;> simp [errorPriority, errorCause_ldr h, errorCause_str h, hal])

section Bodies

variable (s : State)

/-- The commands without a check complete at once, in a state with the same control registers. -/
theorem exec_of_raisesNoError {i : Instr} (hi : raisesNoError i = true) :
    ∃ t, exec i s = runCommand s (.ok t) ∧ t.ctl = s.ctl := by
  cases i with
  | nop | lpf16 | lpf32 | sat16 | xor16 | li | lui | mov =>
    simp only [exec, execNop, execLpf16, execLpf32, execSat16, execXor16, execLi, execLui, execMov]
    exact ⟨_, rfl, rfl⟩
  | _ => exact absurd hi Bool.false_ne_true

theorem exec_raisesNoError_answersTable {i : Instr} (hi : raisesNoError i = true) :
    ∃ body, exec i s = runCommand s body ∧ (s.sup.state ≠ .halted → AnswersTable i s body) := by
  obtain ⟨t, hrun, hctl⟩ := exec_of_raisesNoError s hi
  exact ⟨.ok t, hrun, fun h => answersTable_ok (errorFree_of_raisesNoError h hi) hctl⟩

theorem exec_frmchk_answersTable (rd : Reg) :
    ∃ body, exec (.frmchk rd) s = runCommand s body ∧ (s.sup.state ≠ .halted → AnswersTable (.frmchk rd) s body) := by
  refine ⟨_, rfl, fun h => answersTable_ite (fun hunset => reports_of_first ?_ ?_) fun hset =>
    answersTable_ite (fun hsame => reports_of_first ?_ ?_) fun hdiff => answersTable_ok ?_ rfl⟩
  · exact (errorCause_frmchk h _ rd).2 (.inl ⟨rfl, hunset⟩)
  · simp [errorPriority, errorCause_frmchk h]
  · exact (errorCause_frmchk h _ rd).2 (.inr ⟨rfl, hsame⟩)
  · simpa [errorPriority, errorCause_frmchk h] using hset
  · rintro e he
    rcases (errorCause_frmchk h e rd).1 he with ⟨-, hunset⟩ | ⟨-, hsame⟩
    · exact hset hunset
    · exact hdiff hsame

theorem exec_ldr_answersTable (r : Reg) (off : Offset) :
    ∃ body, exec (.ldr r off) s = runCommand s body ∧ (s.sup.state ≠ .halted → AnswersTable (.ldr r off) s body) := by
  refine ⟨_, rfl, fun h => ?_⟩
  cases hn : namedReg off with
  | error e => exact reports_of_namedReg_error h (.inl rfl) hn
  | ok x =>
    obtain ⟨hal, hreg⟩ := (namedReg_eq_ok_iff off x).1 hn
    refine answersTable_ok (fun e he => ?_) ?_
    · simp [errorCause_ldr h, hal, hreg] at he
    · rcases afterRead_eq x s with hread | ⟨-, -, -, hread⟩ <;> rw [setReg_ctl, hread]

theorem exec_str_answersTable (r : Reg) (off : Offset) :
    ∃ body, exec (.str r off) s = runCommand s body ∧ (s.sup.state ≠ .halted → AnswersTable (.str r off) s body) := by
  refine ⟨_, rfl, fun h => ?_⟩
  cases hn : namedReg off with
  | error e => exact reports_of_namedReg_error h (.inr rfl) hn
  | ok x =>
    obtain ⟨hal, hreg⟩ := (namedReg_eq_ok_iff off x).1 hn
    cases hw : isWritable x with
    | false =>
      simp only [hw, Bool.false_eq_true, if_false]
      exact reports_of_first ((errorCause_str h _ r off).2 (.inr (.inr ⟨rfl, x, hreg, hw⟩)))
        (by simp [errorPriority, errorCause_str h, hal, hreg])
    | true =>
      simp only [hw, if_true]
      refine ⟨fun e he => ?_, fun hne _ => absurd rfl (hne r off)⟩
      simp [errorCause_str h, hal, hreg, hw] at he

/-- R261 makes its checks in the order of R401. -/
theorem reports_of_tickError {s : State} (h : s.sup.state ≠ .halted) {e : ErrorKind} (he : tickError s = some e) :
    reports e .tick s := by
  unfold tickError at he
  split_ifs at he with hpipe hunset hbad hneg <;> obtain rfl := Option.some.inj he
  · exact reports_of_first ((errorCause_tick h _).2 ⟨hpipe, .inl ⟨rfl, by simpa using hunset⟩⟩)
      (by simp [errorPriority, errorCause_tick h])
  · exact reports_of_first ((errorCause_tick h _).2 ⟨hpipe, .inr (.inl ⟨rfl, hbad⟩)⟩)
      (by simpa [errorPriority, errorCause_tick h, hpipe] using hunset)
  · exact reports_of_first ((errorCause_tick h _).2 ⟨hpipe, .inr (.inr ⟨rfl, hneg⟩)⟩)
      (by simpa [errorPriority, errorCause_tick h, hpipe, hbad] using hunset)

theorem errorFree_of_tickError_none {s : State} (h : s.sup.state ≠ .halted) (hnone : tickError s = none) :
    errorFree .tick s := by
  intro e he
  obtain ⟨hpipe, hcause⟩ := (errorCause_tick h e).1 he
  obtain ⟨hset, hgood, hrate⟩ := (tickError_none_iff s).1 hnone (by simpa [isPipeline] using hpipe)
  rcases hcause with ⟨-, hunset⟩ | ⟨-, hbad⟩ | ⟨-, hneg⟩
  · exact Bool.false_ne_true (hunset.symm.trans hset)
  · exact Bool.false_ne_true (hgood.symm.trans hbad)
  · omega

theorem exec_tick_answersTable :
    ∃ body, exec .tick s = runCommand s body ∧ (s.sup.state ≠ .halted → AnswersTable .tick s body) := by
  refine ⟨_, rfl, fun h => ?_⟩
  cases herr : tickError s with
  | some e => exact reports_of_tickError h herr
  | none => exact ⟨errorFree_of_tickError_none h herr, fun _ _ => by simp⟩

/-- Every command is a body under the HALTED check, which outside HALTED answers R400's table. -/
theorem exec_answersTable (i : Instr) :
    ∃ body, exec i s = runCommand s body ∧ (s.sup.state ≠ .halted → AnswersTable i s body) := by
  cases i with
  | nop | lpf16 | lpf32 | sat16 | xor16 | li | lui | mov => exact exec_raisesNoError_answersTable s rfl
  | rl16 rd ra rb =>
    exact ⟨_, rfl, fun h => answersTable_of_oneCheck (errorCause_rl16 h · rd ra rb) fun _ _ => ⟨rfl, rfl⟩⟩
  | mixr rd ra rb rc =>
    exact ⟨_, rfl, fun h => answersTable_of_oneCheck (errorCause_mixr h · rd ra rb rc) fun _ _ => ⟨rfl, rfl⟩⟩
  | mixl rd ra rb rc =>
    exact ⟨_, rfl, fun h => answersTable_of_oneCheck (errorCause_mixl h · rd ra rb rc) fun _ _ => ⟨rfl, rfl⟩⟩
  | frmchk rd => exact exec_frmchk_answersTable s rd
  | ldr r off => exact exec_ldr_answersTable s r off
  | str r off => exact exec_str_answersTable s r off
  | tick => exact exec_tick_answersTable s
  | swreset => exact ⟨_, rfl, fun h => answersTable_of_oneCheck (errorCause_swreset h) fun _ hne => absurd rfl hne⟩

end Bodies

/-! ## Every command, in every state (R400 to R404) -/

/-- A command ends in the error it reports, or no cause holds and it completes. -/
theorem exec_reports_or_completes (i : Instr) (s : State) :
    (∃ e, reports e i s ∧ exec i s = .next (errorRecord (errorCode e) s)) ∨
      ∃ t, exec i s = .next t ∧ AnswersTable i s (.ok t) := by
  obtain ⟨body, hrun, hbody⟩ := exec_answersTable s i
  by_cases hh : s.sup.state = .halted
  · exact .inl ⟨.halted, reports_halted hh i, by rw [hrun, runCommand_halted hh, raiseError_eq]⟩
  · cases body with
    | error e => exact .inl ⟨e, hbody hh, by rw [hrun, runCommand_error hh, raiseError_eq]⟩
    | ok t => exact .inr ⟨t, by rw [hrun, runCommand_ok hh], hbody hh⟩

/-- Settles O53: the command ends in some reported error or completes free of causes; only one error is reported, and
none where no cause holds. -/
theorem errorsArePreciseAndPrioritised : Obligations.ErrorsArePreciseAndPrioritised := by
  unfold Obligations.ErrorsArePreciseAndPrioritised
  intro i s
  rcases exec_reports_or_completes i s with ⟨d, hd, hexec⟩ | ⟨t, hexec, hfree, hkept⟩
  · exact ⟨fun e he => reports_unique hd he ▸ hexec, fun hfree => absurd hd (not_reports_of_errorFree hfree d)⟩
  · exact ⟨fun e he => absurd he (not_reports_of_errorFree hfree e), fun _ => ⟨t, hexec, hkept⟩⟩

end Sys2Proof.Machine
end

section
/-! PROOFS of 70_reset_and_hazards.md. What the registers with an index and the empty byte memory hold after a reset; then
R441's table row by row. -/

namespace Sys2Proof.Machine

/-! ## The state after a reset (R441) -/

/-- A memory without a listed byte reads as the buffers' reset contents (R58). -/
@[simp] theorem readByte_nil (a : Nat) : readByte [] a = 0#8 := rfl

@[simp] theorem readWord_nil (a : Nat) : readWord [] a = 0#32 := by
  simp only [readWord, readByte_nil]
  rfl

theorem reset_mem : State.reset.mem = [] := rfl

/-- R0 to R7. -/
theorem getReg_reset (i : Reg) : getReg State.reset i = 0#32 := by
  simp only [getReg, State.reset, Fin.getElem_fin, Vector.getElem_replicate]

/-- TONE_TAB0 is hardwired 0, and the other five entries are reset to it (R42). -/
theorem toneEntry_reset (k : Fin 6) : toneEntry ConfigRegs.reset k = 0#16 := by
  fin_cases k <;> rfl

/-- CFGVALID has no bit set: every must-write register waits for its first write (R36, R443). -/
theorem isWritten_reset (m : MustReg) : isWritten State.reset m = false :=
  BitVec.getLsbD_zero

/-- With no event pending the line is low, whatever IRQ_EN holds (R411). -/
theorem irq_reset : irq State.reset = false := by
  rw [Bool.eq_false_iff, Ne, irq_iff]
  rintro ⟨k, hpend, -⟩
  exact Bool.false_ne_true (BitVec.getLsbD_zero.symm.trans hpend)

/-! ## A read of an indexed register after a reset: each reads 0 -/

theorem view_reset_x (i : Reg) : view State.reset (.x i) = 0#32 := getReg_reset i

theorem view_reset_toneTab (k : Fin 6) : view State.reset (.toneTab k) = 0#32 :=
  congrArg unsigned (toneEntry_reset k)

theorem view_reset_rxWord (j : Fin 2) : view State.reset (.rxWord j) = 0#32 := readWord_nil _

theorem view_reset_txWord (j : Fin 5) : view State.reset (.txWord j) = 0#32 := readWord_nil _

/-- Settles O57: the indexed registers by their own lemmas, and each remaining row of R441 is one stored constant as its
register's host view shows it. -/
theorem resetGivesTheTabledValues : Obligations.ResetGivesTheTabledValues := by
  unfold Obligations.ResetGivesTheTabledValues
  refine ⟨fun h hrst hmust => ?registers, ?buffers, isWritten_reset, ?ports⟩
  case registers =>
    cases h with
    | rstFlags => exact absurd rfl hrst
    | must m => exact absurd rfl (hmust m)
    | x i => simp [view_reset_x]
    | toneTab k => simp [view_reset_toneTab]
    | rxWord j => simp [view_reset_rxWord]
    | txWord j => simp [view_reset_txWord]
    | _ => rfl
  case buffers => simp [reset_mem]
  case ports =>
    rw [outputPorts, irq_reset]
    rfl

end Sys2Proof.Machine
end

section
/-! PROOFS of 30_encoding.md R130 to R136: the decoder against the encoder, and both against the opcode table. -/

namespace Sys2Proof

/-! ## The decoder, one equation per row (R134) -/

@[simp] theorem ifZero_zero (n : Nat) (i : Instr) : ifZero 0#n i = .ok i := if_pos rfl

theorem ifZero_of_zero {n : Nat} {z : BitVec n} (h : z = 0#n) (i : Instr) : ifZero z i = .ok i := if_pos h

theorem ifZero_eq_ok_iff {n : Nat} (z : BitVec n) (i j : Instr) : ifZero z i = .ok j ↔ z = 0#n ∧ i = j := by
  unfold ifZero
  split_ifs with h <;> simp [h]

section Rows

variable {w : Word}

theorem decode_nop (h : opcodeOf w = 0x00#6) : decode w = ifZero (w.extractLsb' 0 26) .nop := by
  simp only [decode, h]
theorem decode_lpf16 (h : opcodeOf w = 0x01#6) :
    decode w = ifZero (w.extractLsb' 0 17) (.lpf16 (fieldD w) (fieldA w) (fieldB w)) := by simp only [decode, h]
theorem decode_lpf32 (h : opcodeOf w = 0x02#6) :
    decode w = ifZero (w.extractLsb' 0 17) (.lpf32 (fieldD w) (fieldA w) (fieldB w)) := by simp only [decode, h]
theorem decode_rl16 (h : opcodeOf w = 0x03#6) :
    decode w = ifZero (w.extractLsb' 0 17) (.rl16 (fieldD w) (fieldA w) (fieldB w)) := by simp only [decode, h]
theorem decode_mixr (h : opcodeOf w = 0x04#6) :
    decode w = ifZero (w.extractLsb' 0 14) (.mixr (fieldD w) (fieldA w) (fieldB w) (fieldC w)) := by
  simp only [decode, h]
theorem decode_mixl (h : opcodeOf w = 0x05#6) :
    decode w = ifZero (w.extractLsb' 0 14) (.mixl (fieldD w) (fieldA w) (fieldB w) (fieldC w)) := by
  simp only [decode, h]
theorem decode_sat16 (h : opcodeOf w = 0x06#6) :
    decode w = ifZero (w.extractLsb' 0 20) (.sat16 (fieldD w) (fieldA w)) := by simp only [decode, h]
theorem decode_xor16 (h : opcodeOf w = 0x07#6) :
    decode w = ifZero (w.extractLsb' 0 17) (.xor16 (fieldD w) (fieldA w) (fieldB w)) := by simp only [decode, h]
theorem decode_frmchk (h : opcodeOf w = 0x08#6) :
    decode w = ifZero (w.extractLsb' 0 23) (.frmchk (fieldD w)) := by simp only [decode, h]
theorem decode_li (h : opcodeOf w = 0x10#6) :
    decode w = ifZero (w.extractLsb' 16 7) (.li (fieldD w) (fieldImm w)) := by simp only [decode, h]
theorem decode_lui (h : opcodeOf w = 0x11#6) :
    decode w = ifZero (w.extractLsb' 16 7) (.lui (fieldD w) (fieldImm w)) := by simp only [decode, h]
theorem decode_mov (h : opcodeOf w = 0x12#6) :
    decode w = ifZero (w.extractLsb' 0 20) (.mov (fieldD w) (fieldA w)) := by simp only [decode, h]
theorem decode_ldr (h : opcodeOf w = 0x13#6) :
    decode w = ifZero (w.extractLsb' 12 11) (.ldr (fieldD w) (fieldOff w)) := by simp only [decode, h]
theorem decode_str (h : opcodeOf w = 0x14#6) :
    decode w = ifZero (w.extractLsb' 12 11) (.str (fieldD w) (fieldOff w)) := by simp only [decode, h]
theorem decode_tick (h : opcodeOf w = 0x20#6) : decode w = ifZero (w.extractLsb' 0 26) .tick := by
  simp only [decode, h]
theorem decode_swreset (h : opcodeOf w = 0x21#6) : decode w = ifZero (w.extractLsb' 0 26) .swreset := by
  simp only [decode, h]

end Rows

/-! ## Reading the fields of a format back (R131) -/

/-- A 3-bit field read as a register is the field's number, bit by bit. -/
theorem reg_eq_of_testBit {r q : Reg} (h : ∀ i < 3, r.val.testBit i = q.val.testBit i) : r = q := by
  refine Fin.ext (Nat.eq_of_testBit_eq fun i => ?_)
  by_cases hi : i < 3
  · exact h i hi
  · have hpow : 8 ≤ 2 ^ i := Nat.pow_le_pow_right (n := 2) (by omega) (by omega : 3 ≤ i)
    rw [Nat.testBit_lt_two_pow (by omega), Nat.testBit_lt_two_pow (by omega)]

theorem testBit_regField {w : Word} {a i : Nat} (hi : i < 3) :
    (w.extractLsb' a 3).toFin.val.testBit i = w.getLsbD (a + i) := by
  change (w.extractLsb' a 3).toNat.testBit i = _
  rw [BitVec.testBit_toNat, BitVec.getLsbD_extractLsb']
  simp [hi]

theorem testBit_regField_sub {w : Word} {a i : Nat} (hlo : a ≤ i) (hhi : i < a + 3) :
    (w.extractLsb' a 3).toFin.val.testBit (i - a) = w.getLsbD i := by
  rw [testBit_regField (by omega), Nat.add_sub_cancel' hlo]

theorem getLsbD_opcodeOf {w : Word} {i : Nat} (hlo : 26 ≤ i) (hhi : i < 32) :
    (opcodeOf w).getLsbD (i - 26) = w.getLsbD i := by
  rw [opcodeOf, BitVec.getLsbD_extractLsb', Nat.add_sub_cancel' hlo, decide_eq_true (by omega), Bool.true_and]

section Formats

variable (op : BitVec 6) (rd ra rb rc : Reg) (imm : Half) (off : Offset)

@[simp] theorem opcodeOf_formatR : opcodeOf (formatR op rd ra rb rc) = op := by
  refine BitVec.eq_of_getLsbD_eq fun i hi => ?_
  simp only [opcodeOf, BitVec.getLsbD_extractLsb', getLsbD_formatR, hi, decide_true, Bool.true_and]
  split_ifs <;> first | omega | rw [Nat.add_sub_cancel_left]

@[simp] theorem opcodeOf_formatI : opcodeOf (formatI op rd imm) = op := by
  refine BitVec.eq_of_getLsbD_eq fun i hi => ?_
  simp only [opcodeOf, BitVec.getLsbD_extractLsb', getLsbD_formatI, hi, decide_true, Bool.true_and]
  split_ifs <;> first | omega | rw [Nat.add_sub_cancel_left]

@[simp] theorem opcodeOf_formatM : opcodeOf (formatM op rd off) = op := by
  refine BitVec.eq_of_getLsbD_eq fun i hi => ?_
  simp only [opcodeOf, BitVec.getLsbD_extractLsb', getLsbD_formatM, hi, decide_true, Bool.true_and]
  split_ifs <;> first | omega | rw [Nat.add_sub_cancel_left]

@[simp] theorem opcodeOf_formatN : opcodeOf (formatN op) = op := by
  refine BitVec.eq_of_getLsbD_eq fun i hi => ?_
  simp only [opcodeOf, BitVec.getLsbD_extractLsb', getLsbD_formatN, hi, decide_true, Bool.true_and]
  split_ifs <;> first | omega | rw [Nat.add_sub_cancel_left]

@[simp] theorem fieldD_formatR : fieldD (formatR op rd ra rb rc) = rd := by
  refine reg_eq_of_testBit fun i hi => ?_
  rw [fieldD, testBit_regField hi, getLsbD_formatR]
  split_ifs <;> first | omega | rw [Nat.add_sub_cancel_left]

@[simp] theorem fieldA_formatR : fieldA (formatR op rd ra rb rc) = ra := by
  refine reg_eq_of_testBit fun i hi => ?_
  rw [fieldA, testBit_regField hi, getLsbD_formatR]
  split_ifs <;> first | omega | rw [Nat.add_sub_cancel_left]

@[simp] theorem fieldB_formatR : fieldB (formatR op rd ra rb rc) = rb := by
  refine reg_eq_of_testBit fun i hi => ?_
  rw [fieldB, testBit_regField hi, getLsbD_formatR]
  split_ifs <;> first | omega | rw [Nat.add_sub_cancel_left]

@[simp] theorem fieldC_formatR : fieldC (formatR op rd ra rb rc) = rc := by
  refine reg_eq_of_testBit fun i hi => ?_
  rw [fieldC, testBit_regField hi, getLsbD_formatR]
  split_ifs <;> first | omega | rw [Nat.add_sub_cancel_left]

@[simp] theorem fieldD_formatI : fieldD (formatI op rd imm) = rd := by
  refine reg_eq_of_testBit fun i hi => ?_
  rw [fieldD, testBit_regField hi, getLsbD_formatI]
  split_ifs <;> first | omega | rw [Nat.add_sub_cancel_left]

@[simp] theorem fieldD_formatM : fieldD (formatM op rd off) = rd := by
  refine reg_eq_of_testBit fun i hi => ?_
  rw [fieldD, testBit_regField hi, getLsbD_formatM]
  split_ifs <;> first | omega | rw [Nat.add_sub_cancel_left]

@[simp] theorem fieldImm_formatI : fieldImm (formatI op rd imm) = imm := by
  refine BitVec.eq_of_getLsbD_eq fun i hi => ?_
  simp only [fieldImm, BitVec.getLsbD_extractLsb', getLsbD_formatI, Nat.zero_add, hi, decide_true, Bool.true_and,
    if_true]

@[simp] theorem fieldOff_formatM : fieldOff (formatM op rd off) = off := by
  refine BitVec.eq_of_getLsbD_eq fun i hi => ?_
  simp only [fieldOff, BitVec.getLsbD_extractLsb', getLsbD_formatM, Nat.zero_add, hi, decide_true, Bool.true_and,
    if_true]

end Formats

/-! ## The bits a row marks as zero (R135) -/

theorem extractLsb'_eq_zero_iff {w : Word} {a n : Nat} :
    w.extractLsb' a n = 0#n ↔ ∀ i, i < n → w.getLsbD (a + i) = false := by
  refine ⟨fun h i hi => ?_, fun h => BitVec.eq_of_getLsbD_eq fun i hi => ?_⟩
  · have hbit := congrArg (BitVec.getLsbD · i) h
    simpa [hi] using hbit
  · simp [h i hi, hi]

section ZeroFields

variable (op : BitVec 6) (rd ra rb rc : Reg) (imm : Half) (off : Offset)

@[simp] theorem zero14_formatR : (formatR op rd ra rb rc).extractLsb' 0 14 = 0#14 := by
  rw [extractLsb'_eq_zero_iff]
  intro i hi
  rw [getLsbD_formatR, if_pos (by omega)]

@[simp] theorem zero17_formatR : (formatR op rd ra rb 0).extractLsb' 0 17 = 0#17 := by
  rw [extractLsb'_eq_zero_iff]
  intro i hi
  rw [getLsbD_formatR]
  split_ifs <;> first | omega | rfl | exact Nat.zero_testBit _

@[simp] theorem zero20_formatR : (formatR op rd ra 0 0).extractLsb' 0 20 = 0#20 := by
  rw [extractLsb'_eq_zero_iff]
  intro i hi
  rw [getLsbD_formatR]
  split_ifs <;> first | omega | rfl | exact Nat.zero_testBit _

@[simp] theorem zero23_formatR : (formatR op rd 0 0 0).extractLsb' 0 23 = 0#23 := by
  rw [extractLsb'_eq_zero_iff]
  intro i hi
  rw [getLsbD_formatR]
  split_ifs <;> first | omega | rfl | exact Nat.zero_testBit _

@[simp] theorem zero7_formatI : (formatI op rd imm).extractLsb' 16 7 = 0#7 := by
  rw [extractLsb'_eq_zero_iff]
  intro i hi
  rw [getLsbD_formatI, if_neg (by omega), if_pos (by omega)]

@[simp] theorem zero11_formatM : (formatM op rd off).extractLsb' 12 11 = 0#11 := by
  rw [extractLsb'_eq_zero_iff]
  intro i hi
  rw [getLsbD_formatM, if_neg (by omega), if_pos (by omega)]

@[simp] theorem zero26_formatN : (formatN op).extractLsb' 0 26 = 0#26 := by
  rw [extractLsb'_eq_zero_iff]
  intro i hi
  rw [getLsbD_formatN, if_pos (by omega)]

end ZeroFields

/-- Settles O3: each command's format gives its opcode, its operands and zeros in its row's zero field back. -/
theorem decodeEncodeRoundTrip : Obligations.DecodeEncodeRoundTrip := by
  unfold Obligations.DecodeEncodeRoundTrip
  intro i
  cases i with
  | nop => simp [encode, decode_nop]
  | lpf16 rd ra rb => simp [encode, decode_lpf16]
  | lpf32 rd ra rb => simp [encode, decode_lpf32]
  | rl16 rd ra rb => simp [encode, decode_rl16]
  | mixr rd ra rb rc => simp [encode, decode_mixr]
  | mixl rd ra rb rc => simp [encode, decode_mixl]
  | sat16 rd ra => simp [encode, decode_sat16]
  | xor16 rd ra rb => simp [encode, decode_xor16]
  | frmchk rd => simp [encode, decode_frmchk]
  | li rd imm => simp [encode, decode_li]
  | lui rd imm => simp [encode, decode_lui]
  | mov rd ra => simp [encode, decode_mov]
  | ldr r off => simp [encode, decode_ldr]
  | str r off => simp [encode, decode_str]
  | tick => simp [encode, decode_tick]
  | swreset => simp [encode, decode_swreset]

/-- Settles O1: each word is the encoding of its command. -/
theorem decodeOfWordsFromTheSpec : Obligations.DecodeOfWordsFromTheSpec := by
  unfold Obligations.DecodeOfWordsFromTheSpec
  exact ⟨rfl, rfl, rfl, rfl, rfl, rfl, rfl, rfl, rfl, rfl, rfl, rfl, rfl, rfl, rfl⟩

/-! ## Writing the fields of a word back -/

section Words

variable {w : Word}

theorem formatR_of_zero14 (h : w.extractLsb' 0 14 = 0#14) :
    formatR (opcodeOf w) (fieldD w) (fieldA w) (fieldB w) (fieldC w) = w := by
  refine BitVec.eq_of_getLsbD_eq fun i hi => ?_
  rw [extractLsb'_eq_zero_iff] at h
  rw [getLsbD_formatR]
  split_ifs
  · rw [← h i (by omega), Nat.zero_add]
  · rw [fieldC, testBit_regField_sub (by omega) (by omega)]
  · rw [fieldB, testBit_regField_sub (by omega) (by omega)]
  · rw [fieldA, testBit_regField_sub (by omega) (by omega)]
  · rw [fieldD, testBit_regField_sub (by omega) (by omega)]
  · rw [getLsbD_opcodeOf (by omega) hi]

theorem formatI_of_zero7 (h : w.extractLsb' 16 7 = 0#7) : formatI (opcodeOf w) (fieldD w) (fieldImm w) = w := by
  refine BitVec.eq_of_getLsbD_eq fun i hi => ?_
  rw [extractLsb'_eq_zero_iff] at h
  rw [getLsbD_formatI]
  split_ifs
  · rw [fieldImm, BitVec.getLsbD_extractLsb', Nat.zero_add, decide_eq_true (by omega), Bool.true_and]
  · rw [← h (i - 16) (by omega), show 16 + (i - 16) = i by omega]
  · rw [fieldD, testBit_regField_sub (by omega) (by omega)]
  · rw [getLsbD_opcodeOf (by omega) hi]

theorem formatM_of_zero11 (h : w.extractLsb' 12 11 = 0#11) : formatM (opcodeOf w) (fieldD w) (fieldOff w) = w := by
  refine BitVec.eq_of_getLsbD_eq fun i hi => ?_
  rw [extractLsb'_eq_zero_iff] at h
  rw [getLsbD_formatM]
  split_ifs
  · rw [fieldOff, BitVec.getLsbD_extractLsb', Nat.zero_add, decide_eq_true (by omega), Bool.true_and]
  · rw [← h (i - 12) (by omega), show 12 + (i - 12) = i by omega]
  · rw [fieldD, testBit_regField_sub (by omega) (by omega)]
  · rw [getLsbD_opcodeOf (by omega) hi]

theorem formatN_of_zero26 (h : w.extractLsb' 0 26 = 0#26) : formatN (opcodeOf w) = w := by
  refine BitVec.eq_of_getLsbD_eq fun i hi => ?_
  rw [extractLsb'_eq_zero_iff] at h
  rw [getLsbD_formatN]
  split_ifs
  · rw [← h i (by omega), Nat.zero_add]
  · rw [getLsbD_opcodeOf (by omega) hi]

/-- Part of a zero field is zero. -/
theorem extractLsb'_eq_zero_of_within {a n b m : Nat} (h : w.extractLsb' a n = 0#n) (hlo : a ≤ b)
    (hhi : b + m ≤ a + n) : w.extractLsb' b m = 0#m := by
  rw [extractLsb'_eq_zero_iff] at h ⊢
  intro i hi
  rw [← h (b + i - a) (by omega), show a + (b + i - a) = b + i by omega]

theorem regField_eq_zero {a n b : Nat} (h : w.extractLsb' a n = 0#n) (hlo : a ≤ b) (hhi : b + 3 ≤ a + n) :
    (w.extractLsb' b 3).toFin = 0 := by
  rw [extractLsb'_eq_zero_of_within h hlo hhi]
  rfl

theorem formatR_of_zero17 (h : w.extractLsb' 0 17 = 0#17) :
    formatR (opcodeOf w) (fieldD w) (fieldA w) (fieldB w) 0 = w := by
  rw [← show fieldC w = 0 from regField_eq_zero h (by omega) (by omega)]
  exact formatR_of_zero14 (extractLsb'_eq_zero_of_within h (by omega) (by omega))

theorem formatR_of_zero20 (h : w.extractLsb' 0 20 = 0#20) :
    formatR (opcodeOf w) (fieldD w) (fieldA w) 0 0 = w := by
  have hB : fieldB w = 0 := regField_eq_zero h (by omega) (by omega)
  have hw := formatR_of_zero17 (extractLsb'_eq_zero_of_within h (m := 17) (b := 0) (by omega) (by omega))
  rwa [hB] at hw

theorem formatR_of_zero23 (h : w.extractLsb' 0 23 = 0#23) : formatR (opcodeOf w) (fieldD w) 0 0 0 = w := by
  have hA : fieldA w = 0 := regField_eq_zero h (by omega) (by omega)
  have hw := formatR_of_zero20 (extractLsb'_eq_zero_of_within h (m := 20) (b := 0) (by omega) (by omega))
  rwa [hA] at hw

end Words

/-- Settles O4: a word that decodes has its row's opcode and zeros in its zero field, so its format rebuilds it. -/
theorem decodedWordIsItsEncoding : Obligations.DecodedWordIsItsEncoding := by
  unfold Obligations.DecodedWordIsItsEncoding
  intro w i h
  unfold decode at h
  split at h
  case h_17 => exact absurd h (by simp)
  all_goals
    obtain ⟨hzero, rfl⟩ := (ifZero_eq_ok_iff _ _ _).1 h
    rename_i hop
    rw [encode, ← hop]
  · exact formatN_of_zero26 hzero
  · exact formatR_of_zero17 hzero
  · exact formatR_of_zero17 hzero
  · exact formatR_of_zero17 hzero
  · exact formatR_of_zero14 hzero
  · exact formatR_of_zero14 hzero
  · exact formatR_of_zero20 hzero
  · exact formatR_of_zero17 hzero
  · exact formatR_of_zero23 hzero
  · exact formatI_of_zero7 hzero
  · exact formatI_of_zero7 hzero
  · exact formatR_of_zero20 hzero
  · exact formatM_of_zero11 hzero
  · exact formatM_of_zero11 hzero
  · exact formatN_of_zero26 hzero
  · exact formatN_of_zero26 hzero

/-- Decoding and encoding are inverse to each other. -/
theorem decode_eq_ok_iff (w : Word) (i : Instr) : decode w = .ok i ↔ w = encode i :=
  ⟨fun h => (decodedWordIsItsEncoding w i h).symm, fun h => h ▸ decodeEncodeRoundTrip i⟩

/-! ## The opcode table (R134) -/

/-- Where a row's mask has only ones, a word of the row has the bits of the row's pattern. -/
theorem extractLsb'_of_match {w mask pattern : Word} (h : w &&& mask = pattern) {a n : Nat}
    (hmask : mask.extractLsb' a n = BitVec.allOnes n) : w.extractLsb' a n = pattern.extractLsb' a n := by
  rw [← h, BitVec.extractLsb'_and, hmask, BitVec.and_allOnes]

/-- A mnemonic names one row. -/
theorem opcodeTable_row_unique : ∀ r ∈ opcodeTable, ∀ q ∈ opcodeTable, r.mnemonic = q.mnemonic → r = q := by
  decide

/-- A command's word is a word of its own row. -/
theorem encode_matches_row (i : Instr) : Laws.EncodeMatchesRow.Statement i := by
  cases i with
  | nop => exact Laws.EncodeMatchesRow.nop
  | lpf16 rd ra rb => exact Laws.EncodeMatchesRow.lpf16 rd ra rb
  | lpf32 rd ra rb => exact Laws.EncodeMatchesRow.lpf32 rd ra rb
  | rl16 rd ra rb => exact Laws.EncodeMatchesRow.rl16 rd ra rb
  | mixr rd ra rb rc => exact Laws.EncodeMatchesRow.mixr rd ra rb rc
  | mixl rd ra rb rc => exact Laws.EncodeMatchesRow.mixl rd ra rb rc
  | sat16 rd ra => exact Laws.EncodeMatchesRow.sat16 rd ra
  | xor16 rd ra rb => exact Laws.EncodeMatchesRow.xor16 rd ra rb
  | frmchk rd => exact Laws.EncodeMatchesRow.frmchk rd
  | li rd imm => exact Laws.EncodeMatchesRow.li rd imm
  | lui rd imm => exact Laws.EncodeMatchesRow.lui rd imm
  | mov rd ra => exact Laws.EncodeMatchesRow.mov rd ra
  | ldr r off => exact Laws.EncodeMatchesRow.ldr r off
  | str r off => exact Laws.EncodeMatchesRow.str r off
  | tick => exact Laws.EncodeMatchesRow.tick
  | swreset => exact Laws.EncodeMatchesRow.swreset

/-- A mask's ones cover the whole opcode, "which alone selects the format" (R130). -/
theorem opcodeTable_mask_opcode : ∀ r ∈ opcodeTable, r.mask.extractLsb' 26 6 = BitVec.allOnes 6 := by decide

theorem decodes_of_zero {w : Word} {n : Nat} {z : BitVec n} {i : Instr} (h : decode w = ifZero z i) (hz : z = 0#n) :
    ∃ j, decode w = .ok j ∧ j.mnemonic = i.mnemonic :=
  ⟨i, h.trans (ifZero_of_zero hz i), rfl⟩

/-- A word of a row has the row's opcode and zeros in its zero field, so it decodes to a command of the row. -/
theorem decodes_of_match {w : Word} {r : OpcodeRow} (hr : r ∈ opcodeTable) (h : w &&& r.mask = r.pattern) :
    ∃ i, decode w = .ok i ∧ i.mnemonic = r.mnemonic := by
  have hop : opcodeOf w = opcodeOf r.pattern := extractLsb'_of_match h (opcodeTable_mask_opcode r hr)
  simp only [opcodeTable, List.mem_cons, List.not_mem_nil, or_false] at hr
  rcases hr with rfl | rfl | rfl | rfl | rfl | rfl | rfl | rfl | rfl | rfl | rfl | rfl | rfl | rfl | rfl | rfl
  · exact decodes_of_zero (decode_nop hop) (extractLsb'_of_match h rfl)
  · exact decodes_of_zero (decode_lpf16 hop) (extractLsb'_of_match h rfl)
  · exact decodes_of_zero (decode_lpf32 hop) (extractLsb'_of_match h rfl)
  · exact decodes_of_zero (decode_rl16 hop) (extractLsb'_of_match h rfl)
  · exact decodes_of_zero (decode_mixr hop) (extractLsb'_of_match h rfl)
  · exact decodes_of_zero (decode_mixl hop) (extractLsb'_of_match h rfl)
  · exact decodes_of_zero (decode_sat16 hop) (extractLsb'_of_match h rfl)
  · exact decodes_of_zero (decode_xor16 hop) (extractLsb'_of_match h rfl)
  · exact decodes_of_zero (decode_frmchk hop) (extractLsb'_of_match h rfl)
  · exact decodes_of_zero (decode_li hop) (extractLsb'_of_match h rfl)
  · exact decodes_of_zero (decode_lui hop) (extractLsb'_of_match h rfl)
  · exact decodes_of_zero (decode_mov hop) (extractLsb'_of_match h rfl)
  · exact decodes_of_zero (decode_ldr hop) (extractLsb'_of_match h rfl)
  · exact decodes_of_zero (decode_str hop) (extractLsb'_of_match h rfl)
  · exact decodes_of_zero (decode_tick hop) (extractLsb'_of_match h rfl)
  · exact decodes_of_zero (decode_swreset hop) (extractLsb'_of_match h rfl)

/-- Conversely a word that decodes is its command's encoding, which is a word of the one row with its mnemonic. -/
theorem match_of_decodes {w : Word} {i : Instr} {r : OpcodeRow} (hr : r ∈ opcodeTable) (h : decode w = .ok i)
    (hname : i.mnemonic = r.mnemonic) : w &&& r.mask = r.pattern := by
  obtain ⟨q, hq, hqname, hmatch⟩ := encode_matches_row i
  obtain rfl := opcodeTable_row_unique q hq r hr (hqname.trans hname)
  rwa [(decode_eq_ok_iff w i).1 h]

theorem match_iff_decodes {r : OpcodeRow} (hr : r ∈ opcodeTable) (w : Word) :
    w &&& r.mask = r.pattern ↔ ∃ i, decode w = .ok i ∧ i.mnemonic = r.mnemonic :=
  ⟨decodes_of_match hr, fun ⟨_, h, hname⟩ => match_of_decodes hr h hname⟩

/-- Settles O5: the printed rows; matching a row is decoding to its mnemonic; and so a word of two rows, which decodes
to one command, has one mnemonic and with it one row. -/
theorem opcodeTableDecidesDecoding : Obligations.OpcodeTableDecidesDecoding := by
  unfold Obligations.OpcodeTableDecidesDecoding
  refine ⟨rfl, fun w r hr => match_iff_decodes hr w, fun w r hr q hq hwr hwq => ?_⟩
  obtain ⟨i, hi, hri⟩ := decodes_of_match hr hwr
  obtain ⟨j, hj, hqj⟩ := decodes_of_match hq hwq
  have hij : i = j := Except.ok.inj (hi.symm.trans hj)
  exact opcodeTable_row_unique r hr q hq (by rw [← hri, hij, hqj])

end Sys2Proof
end

section
/-! PROOFS of what a command can do to the state (10_state.md, 40_fixed_point.md to 45_system.md): said once for all of
them, for the rules that speak of every command. -/

namespace Sys2Proof.Machine

/-! ## What a command can do -/

/-- The next states a command can lead to, by what it writes. -/
inductive Effect (s : State) : Instr → State → Prop
  | error (i : Instr) (e : ErrorKind) : Effect s i (raiseError e s)
  | nop : Effect s .nop s
  | result {i : Instr} (htick : i ≠ .tick) (hswr : i ≠ .swreset) (d : Reg) (v : Word) : Effect s i (setReg d v s)
  | load (r : Reg) (off : Offset) (h : HostReg) : Effect s (.ldr r off) (setReg r (view s h) (afterRead h s))
  | store (r : Reg) (off : Offset) (h : HostReg) : Effect s (.str r off) (store h (getReg s r) s)
  | tick (h : TickAccepted s) : Effect s .tick (dispatchTick (commitTick s))
  | swreset (h : s.sup.state ≠ .halted) (hoff : s.sup.state ≠ .poweroff) :
      Effect s .swreset (resetState (s.ctl.rstFlags ||| 0b0100#4) s)

/-- A command's effect is its body's: the HALTED check and the body's own errors leave the error record. -/
theorem effect_of_runCommand {s t : State} {i : Instr} {body : Except ErrorKind State} (h : runCommand s body = .next t)
    (hok : s.sup.state ≠ .halted → body = .ok t → Effect s i t) : Effect s i t := by
  rcases runCommand_cases h with ⟨-, rfl⟩ | ⟨hh, hbody⟩ | ⟨-, e, -, rfl⟩
  · exact .error i _
  · exact hok hh hbody
  · exact .error i e

theorem effect_of_setReg {s t : State} {i : Instr} (htick : i ≠ .tick) (hswr : i ≠ .swreset) {d : Reg} {v : Word}
    (h : runCommand s (.ok (setReg d v s)) = .next t) : Effect s i t :=
  effect_of_runCommand h fun _ hbody => by
    obtain rfl := Except.ok.inj hbody
    exact .result htick hswr d v

theorem effect_of_check {s t : State} {i : Instr} {c : Prop} [Decidable c] {e : ErrorKind}
    {body : Except ErrorKind State} (h : runCommand s (if c then .error e else body) = .next t)
    (hgo : ¬c → runCommand s body = .next t → Effect s i t) : Effect s i t := by
  by_cases hc : c
  · rw [if_pos hc] at h
    exact effect_of_runCommand h fun _ hbody => nomatch hbody
  · rw [if_neg hc] at h
    exact hgo hc h

/-- Every command does one of these. -/
theorem exec_effect {i : Instr} {s t : State} (h : exec i s = .next t) : Effect s i t := by
  cases i with
  | nop =>
    refine effect_of_runCommand (body := .ok s) h fun _ hbody => ?_
    exact Except.ok.inj hbody ▸ .nop
  | lpf16 | lpf32 | sat16 | xor16 | li | lui | mov => exact effect_of_setReg (by simp) (by simp) h
  | rl16 | mixr | mixl => exact effect_of_check h fun _ h => effect_of_setReg (by simp) (by simp) h
  | frmchk rd => exact effect_of_check h fun _ h => effect_of_check h fun _ h => effect_of_setReg (by simp) (by simp) h
  | ldr r off =>
    refine effect_of_runCommand h fun _ hbody => ?_
    cases hn : namedReg off with
    | error e => simp [hn] at hbody
    | ok x =>
      simp only [hn, Except.ok.injEq] at hbody
      exact hbody ▸ .load r off x
  | str r off =>
    refine effect_of_runCommand h fun _ hbody => ?_
    cases hn : namedReg off with
    | error e => simp [hn] at hbody
    | ok x =>
      simp only [hn] at hbody
      split_ifs at hbody
      exact Except.ok.inj hbody ▸ .store r off x
  | tick =>
    refine effect_of_runCommand h fun hh hbody => ?_
    cases herr : tickError s with
    | some e => simp [herr] at hbody
    | none =>
      simp only [herr, Except.ok.injEq] at hbody
      exact hbody ▸ .tick (errorFree_of_tickError_none hh herr)
  | swreset =>
    refine effect_of_runCommand h fun hh hbody => ?_
    split_ifs at hbody with hoff
    exact Except.ok.inj hbody ▸ .swreset hh hoff

/-- In HALTED every command only leaves the record of E_HALTED (R404). -/
theorem exec_halted {s : State} (h : s.sup.state = .halted) (i : Instr) : exec i s = .next (raiseError .halted s) := by
  obtain ⟨body, hrun, -⟩ := exec_answersTable s i
  rw [hrun, runCommand_halted h]

end Sys2Proof.Machine
end

section
/-! PROOFS of the invariant of Safety.lean: the reset state meets it, and each command, each action of the outside world
and so every step keeps it. -/

namespace Sys2Proof.Machine

/-! ## The invariant, as far as each operation can touch it -/

/-- All that the invariant reads. -/
def invFields (s : State) : Memory × SupState × Bool × Bool × BitVec 3 × Status × BitVec 8 × BitVec 17 :=
  (s.mem, s.sup.state, s.out.enable, s.out.powerLatch, s.out.buz.toneId, s.ctl.status, s.der.fbDiv, s.ctl.cfgValid)

theorem Inv.congr {s t : State} (h : Inv s) (hst : invFields t = invFields s) : Inv t := by
  simp only [invFields, Prod.mk.injEq] at hst
  obtain ⟨hmem, hsup, hen, hlatch, htone, hstatus, hfb, hvalid⟩ := hst
  exact {
    memWf := hmem ▸ h.memWf
    memInBuffers := hmem ▸ h.memInBuffers
    enable := by rw [hen, hsup, h.enable]
    latch := by rw [hlatch, hsup, h.latch]
    errCode := by rw [hstatus, h.errCode]
    errCodeBound := hstatus ▸ h.errCodeBound
    fbDiv := hfb ▸ h.fbDiv
    toneId := htone ▸ h.toneId
    configured := by rw [hsup, hvalid]; exact h.configured }

/-- The consistency of ERR and ERRCODE (R34, R400). -/
def StatusOk (st : Status) : Prop := (st.errCode = 0#4 ↔ st.err = false) ∧ st.errCode.toNat ≤ 8

theorem Inv.statusOk {s : State} (h : Inv s) : StatusOk s.ctl.status := ⟨h.errCode, h.errCodeBound⟩

/-- Codes are 1 to 8 (R400). -/
theorem errorCode_range (e : ErrorKind) : errorCode e ≠ 0#4 ∧ (errorCode e).toNat ≤ 8 := by
  cases e <;> decide

theorem statusAfterError_ok (e : ErrorKind) {st : Status} (h : StatusOk st) : StatusOk (statusAfterError e st) := by
  unfold statusAfterError
  split_ifs with herr
  · exact h
  · exact ⟨by simp [(errorCode_range e).1], (errorCode_range e).2⟩

theorem statusAfterWrite_ok (v : Word) {st : Status} (h : StatusOk st) : StatusOk (statusAfterWrite v st) := by
  unfold statusAfterWrite
  cases v.getLsbD 0 with
  | true => simp [StatusOk]
  | false => simpa [StatusOk] using h

/-- A state that differs in its control registers alone, with a sound error record and no must-write register lost. -/
theorem Inv.withCtl {s : State} (h : Inv s) {c : Control} (hstatus : StatusOk c.status)
    (hvalid : s.ctl.cfgValid = 0x1FFFF#17 → c.cfgValid = 0x1FFFF#17) : Inv { s with ctl := c } :=
  { h with
    errCode := hstatus.1
    errCodeBound := hstatus.2
    configured := fun hs => hvalid (h.configured hs) }

theorem Inv.withMem {s : State} (h : Inv s) {m : Memory} (hwf : m.wf) (hin : m.inBuffers = true) :
    Inv { s with mem := m } :=
  { h with memWf := hwf, memInBuffers := hin }

/-! ## Commands other than TICK -/

theorem inv_raiseError {s : State} (h : Inv s) (e : ErrorKind) : Inv (raiseError e s) :=
  h.withCtl (statusAfterError_ok e h.statusOk) id

theorem inv_setReg {s : State} (h : Inv s) (d : Reg) (v : Word) : Inv (setReg d v s) :=
  h.congr rfl

theorem inv_afterRead {s : State} (h : Inv s) (r : HostReg) : Inv (afterRead r s) := by
  rcases afterRead_eq r s with e | ⟨-, -, -, e⟩ <;> rw [e]
  · exact h
  · exact h.congr rfl

/-- A complete CFGVALID stays complete (R36). -/
theorem cfgValidAfterWrite_full (m : MustReg) : cfgValidAfterWrite m 0x1FFFF#17 = 0x1FFFF#17 := by
  cases m <;> decide

theorem inv_store {s : State} (h : Inv s) (r : HostReg) (v : Word) : Inv (store r v s) := by
  cases r with
  | status => exact h.withCtl (statusAfterWrite_ok v h.statusOk) id
  | must m =>
    have hctl := h.withCtl (c := { s.ctl with cfgValid := cfgValidAfterWrite m s.ctl.cfgValid }) h.statusOk
      fun hfull => by rw [hfull, cfgValidAfterWrite_full]
    exact hctl.congr rfl
  | rxWord j => exact h.withMem (store_mem_wf (.rxWord j) v h.memWf) (store_mem_inBuffers (.rxWord j) v h.memInBuffers)
  | _ => exact h.congr rfl

/-- Settles O58: every field of the reset state is a constant. -/
theorem resetMeetsTheInvariant : Obligations.ResetMeetsTheInvariant where
  memWf := reset_mem_wf
  memInBuffers := reset_mem_inBuffers
  enable := by decide
  latch := by decide
  errCode := by decide
  errCodeBound := by decide
  fbDiv := by decide
  toneId := by decide
  configured := fun h => absurd rfl h

theorem inv_resetState (flags : BitVec 4) (s : State) : Inv (resetState flags s) :=
  resetMeetsTheInvariant.congr rfl

/-! ## TICK -/

theorem inv_commitTick {s : State} (h : Inv s) : Inv (commitTick s) :=
  h.congr rfl

theorem inv_powerOffStep {s : State} (h : Inv s) (hoff : s.sup.state = .poweroff) : Inv (powerOffStep s) := by
  have hvalid := h.configured (by simp [hoff])
  by_cases hramp : s.sup.poStep.toNat < s.cfg.poSteps.toNat
  · rw [powerOffStep_ramps hramp]
    exact { h with
      enable := by simp [hoff]
      toneId := by simp }
  · rw [powerOffStep_halts (Nat.not_lt.1 hramp)]
    exact { h with
      enable := by simp
      latch := by simp
      toneId := by simp [silence]
      configured := fun _ => hvalid }

/-- Every outcome of ButtonWaitStep keeps the latch and drives ENABLE to 0, in a state other than ENABLED and HALTED. -/
theorem inv_buttonWaitStep {s : State} (h : Inv s) (hwait : s.sup.state = .btnWait) : Inv (buttonWaitStep s) := by
  have hvalid := h.configured (by simp [hwait])
  have hlatch : s.out.powerLatch = true := by simpa [hwait] using h.latch.not
  cases hbtn : s.snap.btn with
  | true =>
    rw [buttonWaitStep_held hbtn]
    exact { h with enable := by simp [hwait] }
  | false =>
    by_cases hflags : s.ctl.rstFlags.getLsbD 2 = true ∨ s.ctl.rstFlags.getLsbD 3 = true
    · rw [buttonWaitStep_resumes hbtn hflags]
      exact { h with
        enable := by simp [resume]
        latch := by simp [resume, hlatch]
        configured := fun _ => hvalid }
    · simp only [not_or, Bool.not_eq_true] at hflags
      rw [buttonWaitStep_powersOff hbtn hflags.1 hflags.2]
      exact { h with
        enable := by simp [enterPowerOff]
        latch := by simp [enterPowerOff, hlatch]
        configured := fun _ => hvalid }

theorem inv_buttonPress {s : State} (h : Inv s) (hc : checksConfig s) (hvalid : s.ctl.cfgValid = 0x1FFFF#17) :
    Inv (buttonPress s) := by
  have hne : s.sup.state ≠ .halted := by rcases hc with h | h <;> simp [h]
  exact { h with
    enable := by simp [buttonPress]
    latch := by simpa [buttonPress, hne] using h.latch
    toneId := by simp [buttonPress, silence]
    configured := fun _ => hvalid }

/-- RXBUF is at 0x200 to 0x207 and TXBUF at 0x240 to 0x253 (R101). -/
theorem isBufferByte_iff (a : Nat) :
    isBufferByte a = true ↔ (0x200 ≤ a ∧ a < 0x208) ∨ (0x240 ≤ a ∧ a < 0x254) := by
  simp only [isBufferByte, Bool.or_eq_true, Bool.and_eq_true, decide_eq_true_eq]
  rfl

/-- The bytes of TXBUF, where S8 writes, are buffer bytes. -/
theorem isBufferByte_txBase_add {i : Nat} (h : i < 20) : isBufferByte (txBase + i) = true := by
  rw [isBufferByte_iff, txBase]
  omega

theorem length_frameFields (s : State) : (frameFields s).length = 10 := rfl

theorem pipeline_mem_wf {s : State} (h : s.mem.wf) : (pipeline s).mem.wf := by
  rw [pipeline_mem]
  split_ifs
  · exact writeFields_wf _ _ (takeCommands_mem_wf h)
  · exact takeCommands_mem_wf h

theorem takeCommands_mem_inBuffers {s : State} (h : s.mem.inBuffers = true) :
    (takeCommands s).mem.inBuffers = true := by
  rcases takeCommands_mem_cases s with e | e <;> rw [e]
  · exact h
  · exact writeHalf_inBuffers _ h (by decide) (by decide)

theorem pipeline_mem_inBuffers {s : State} (h : s.mem.inBuffers = true) : (pipeline s).mem.inBuffers = true := by
  rw [pipeline_mem]
  split_ifs
  · exact writeFields_inBuffers _ (takeCommands_mem_inBuffers h) fun i hi =>
      isBufferByte_txBase_add (by rw [length_frameFields] at hi; omega)
  · exact takeCommands_mem_inBuffers h

/-- A pipeline tone id is one of 0 to 5 (R308). -/
theorem pipeline_toneId (s : State) : (pipeline s).out.buz.toneId ≠ 7#3 := by
  rw [pipeline_buz]
  intro h
  have hid := congrArg BitVec.toNat h
  rw [toneOf, toNat_toneId] at hid
  have hlt := (toneSelect (timedOut (pipeline s)) (pipeline s)).isLt
  simp at hid
  omega

theorem inv_pipeline {s : State} (h : Inv s) (hc : checksConfig s) (hvalid : s.ctl.cfgValid = 0x1FFFF#17) :
    Inv (pipeline s) where
  memWf := pipeline_mem_wf h.memWf
  memInBuffers := pipeline_mem_inBuffers h.memInBuffers
  enable := pipeline_enable_iff s
  latch := by
    have hs : s.sup.state ≠ .halted := by rcases hc with h | h <;> simp [h]
    have ht : (pipeline s).sup.state ≠ .halted := by rcases pipeline_state_cases hc with h | h | h <;> simp [h]
    rw [pipeline_powerLatch, h.latch, iff_false_intro hs, iff_false_intro ht]
  errCode := by rw [pipeline_status, h.errCode]
  errCodeBound := by rw [pipeline_status]; exact h.errCodeBound
  fbDiv := by
    rw [pipeline_fbDiv hc]
    split_ifs
    · exact h.fbDiv
    · rw [fbDivNext_toNat]
      omega
  toneId := pipeline_toneId s
  configured := fun _ => by rw [pipeline_cfgValid, hvalid]

/-- An accepted TICK by the state it starts in (R263). -/
theorem dispatchTick_cases {s : State} (h : s.sup.state ≠ .halted) :
    (s.sup.state = .poweroff ∧ dispatchTick s = powerOffStep s) ∨
      (s.sup.state = .btnWait ∧ dispatchTick s = buttonWaitStep s) ∨
      (checksConfig s ∧ s.snap.btn = true ∧ dispatchTick s = buttonPress s) ∨
      (checksConfig s ∧ s.snap.btn = false ∧ dispatchTick s = pipeline s) := by
  cases hs : s.sup.state with
  | poweroff => exact .inl ⟨rfl, dispatchTick_poweroff hs⟩
  | btnWait => exact .inr (.inl ⟨rfl, dispatchTick_btnWait hs⟩)
  | halted => exact absurd hs h
  | disabled | enabled =>
    have hc : checksConfig s := by simp [checksConfig, hs]
    refine .inr (.inr ?_)
    cases hb : s.snap.btn with
    | true => exact .inl ⟨hc, rfl, dispatchTick_pressed hc hb⟩
    | false => exact .inr ⟨hc, rfl, by simp [dispatchTick, hs, hb]⟩

theorem inv_tick {s : State} (h : Inv s) (ht : TickAccepted s) : Inv (dispatchTick (commitTick s)) := by
  obtain ⟨hh, hchecks⟩ := (tickAccepted_iff s).1 ht
  have hcommit := inv_commitTick h
  rcases dispatchTick_cases (s := commitTick s) hh with ⟨hs, e⟩ | ⟨hs, e⟩ | ⟨hc, -, e⟩ | ⟨hc, -, e⟩ <;> rw [e]
  · exact inv_powerOffStep hcommit hs
  · exact inv_buttonWaitStep hcommit hs
  · exact inv_buttonPress hcommit hc (hchecks hc).1
  · exact inv_pipeline hcommit hc (hchecks hc).1

/-! ## Every step -/

theorem inv_exec {i : Instr} {s t : State} (h : Inv s) (he : exec i s = .next t) : Inv t := by
  cases exec_effect he with
  | error i e => exact inv_raiseError h e
  | nop => exact h
  | result _ _ d v => exact inv_setReg h d v
  | load r off x => exact inv_setReg (inv_afterRead h x) r _
  | store r off x => exact inv_store h x _
  | tick ht => exact inv_tick h ht
  | swreset => exact inv_resetState _ s

theorem inv_withCommand {s : State} (h : Inv s) (w : Word) : Inv (withCommand w s) :=
  h.congr rfl

theorem inv_issueCommand {w : Word} {s t : State} (h : Inv s) (he : issueCommand w s = .next t) : Inv t := by
  rcases issueCommand_cases he with ⟨i, -, hexec⟩ | ⟨-, -, rfl⟩
  · exact inv_exec (inv_withCommand h w) hexec
  · exact inv_raiseError (inv_withCommand h w) _

theorem inv_hostRead {s : State} (h : Inv s) (width : Nat) (off : Offset) : Inv (hostRead width off s) := by
  unfold hostRead
  split
  · exact (inv_afterRead h _).congr rfl
  · exact h.congr rfl

theorem isBufferByte_rxBase_add (i : Fin 8) : isBufferByte (rxBase + i.val) = true := by
  rw [isBufferByte_iff, rxBase]
  omega

theorem inv_dmaWrite {s : State} (h : Inv s) (i : Fin 8) (b : Byte) : Inv (dmaWrite i b s) :=
  h.withMem (writeByte_wf _ _ h.memWf) (writeByte_inBuffers b h.memInBuffers (isBufferByte_rxBase_add i))

theorem inv_performAction {a : AgentAction} {s t : State} (h : Inv s) (he : performAction a s = .next t) : Inv t := by
  rcases performAction_cases he with ⟨width, off, -, rfl⟩ | ⟨w, -, hcmd⟩ | ⟨off, r, v, -, -, -, rfl⟩ |
    ⟨-, -, -, -, rfl⟩ | ⟨i, b, -, rfl⟩ | ⟨p, c, -, rfl⟩ | ⟨-, rfl⟩
  · exact inv_hostRead h width off
  · exact inv_issueCommand h hcmd
  · exact (inv_store h r v).congr rfl
  · exact h.congr rfl
  · exact inv_dmaWrite h i b
  · exact h.congr rfl
  · exact inv_resetState _ s

/-- Settles O59: an idle step keeps the state, and each action keeps the invariant. -/
theorem everyStepKeepsTheInvariant : Obligations.EveryStepKeepsTheInvariant := by
  unfold Obligations.EveryStepKeepsTheInvariant
  intro s t h hstep
  rcases step_cases hstep with ⟨-, rfl⟩ | ⟨a, rest, -, ha⟩
  · exact h
  · exact inv_performAction (s := { s with pending := rest }) (h.congr rfl) ha

end Sys2Proof.Machine
end

section
/-! PROOFS of 43_supervisor.md R300, R330 and 10_state.md R49: which steps move the supervisor, and which write the
read-only registers. -/

namespace Sys2Proof.Machine

/-! ## The supervisor's moves (R300, R330) -/

/-- SWRESET: refused in HALTED and POWEROFF, else the reset (R380). -/
theorem exec_swreset (s : State) :
    exec .swreset s =
      if s.sup.state = .halted ∨ s.sup.state = .poweroff then .next (raiseError .halted s)
      else .next (resetState (s.ctl.rstFlags ||| 0b0100#4) s) := by
  show execSwreset s = _
  by_cases hh : s.sup.state = .halted
  · rw [execSwreset, runCommand_halted hh, if_pos (.inl hh)]
  · rw [execSwreset]
    by_cases hoff : s.sup.state = .poweroff
    · rw [if_pos hoff, runCommand_error hh, if_pos (.inr hoff)]
    · rw [if_neg hoff, runCommand_ok hh, if_neg (by simp [hh, hoff])]

theorem powerOffStep_state_cases (s : State) :
    (powerOffStep s).sup.state = s.sup.state ∨ (powerOffStep s).sup.state = .halted := by
  by_cases hramp : s.sup.poStep.toNat < s.cfg.poSteps.toNat
  · exact .inl (by rw [powerOffStep_ramps hramp])
  · exact .inr (by rw [powerOffStep_halts (Nat.not_lt.1 hramp), raiseEvent_sup])

theorem buttonWaitStep_state_cases (s : State) :
    (buttonWaitStep s).sup.state = s.sup.state ∨ (buttonWaitStep s).sup.state = .disabled ∨
      (buttonWaitStep s).sup.state = .poweroff := by
  cases hbtn : s.snap.btn with
  | true => exact .inl (by rw [buttonWaitStep_held hbtn])
  | false =>
    by_cases hflags : s.ctl.rstFlags.getLsbD 2 = true ∨ s.ctl.rstFlags.getLsbD 3 = true
    · exact .inr (.inl (by rw [buttonWaitStep_resumes hbtn hflags, resume]))
    · simp only [not_or, Bool.not_eq_true] at hflags
      exact .inr (.inr (by rw [buttonWaitStep_powersOff hbtn hflags.1 hflags.2, enterPowerOff_state]))

/-- A stay is a move of the table. -/
theorem mem_tickMoves_self (st : SupState) : st ∈ tickMoves st := by
  cases st <;> decide

theorem dispatchTick_state_mem {s : State} (h : s.sup.state ≠ .halted) :
    (dispatchTick s).sup.state ∈ tickMoves s.sup.state := by
  rcases dispatchTick_cases h with ⟨hs, e⟩ | ⟨hs, e⟩ | ⟨hc, -, e⟩ | ⟨hc, -, e⟩ <;> rw [e]
  · rcases powerOffStep_state_cases s with ht | ht <;> simp [ht, hs, tickMoves]
  · rcases buttonWaitStep_state_cases s with ht | ht | ht <;> simp [ht, hs, tickMoves]
  · rcases hc with hs | hs <;> simp [buttonPress, hs, tickMoves]
  · rcases hc with hs | hs <;> rcases pipeline_state_cases (s := s) (by simp [checksConfig, hs]) with ht | ht | ht <;>
      simp [ht, hs, tickMoves]

theorem afterRead_sup (r : HostReg) (s : State) : (afterRead r s).sup = s.sup := by
  rcases afterRead_eq r s with e | ⟨-, -, -, e⟩ <;> rw [e]

theorem store_sup (r : HostReg) (v : Word) (s : State) : (store r v s).sup = s.sup := (store_frame r v s).2.1

/-- Commands other than TICK and SWRESET leave the supervisor. -/
theorem Effect.sup_eq {s t : State} {i : Instr} (h : Effect s i t) (htick : i ≠ .tick) (hswr : i ≠ .swreset) :
    t.sup = s.sup := by
  cases h with
  | error | nop | result => rfl
  | load r off x => exact afterRead_sup x s
  | store r off x => exact store_sup x _ s
  | tick => exact absurd rfl htick
  | swreset => exact absurd rfl hswr

theorem Effect.tick_state_mem {s t : State} (h : Effect s .tick t) : t.sup.state ∈ tickMoves s.sup.state := by
  cases h with
  | error => exact mem_tickMoves_self _
  | result htick => exact absurd rfl htick
  | tick h => exact dispatchTick_state_mem (s := commitTick s) ((tickAccepted_iff s).1 h).1

/-- Settles O51: TICK by its dispatch, SWRESET by its equation, and no other command writes SUP. -/
theorem supervisorMovesOnlyAlongTheTable : Obligations.SupervisorMovesOnlyAlongTheTable := by
  unfold Obligations.SupervisorMovesOnlyAlongTheTable
  intro i s
  obtain ⟨t, ht⟩ := exec_next i s
  refine ⟨t, ht, ?tick, ?swreset, (exec_effect ht).sup_eq⟩
  case tick =>
    rintro rfl
    exact (exec_effect ht).tick_state_mem
  case swreset =>
    rintro rfl
    rw [exec_swreset] at ht
    split_ifs at ht ⊢ <;> obtain rfl := Host.Outcome.next.inj ht <;> rfl

/-! ## HALTED (R330, R404, R440) -/

/-- In HALTED every word written to CMD, a command or not, leaves the record of E_HALTED. -/
theorem issueCommand_halted {s : State} (h : s.sup.state = .halted) (w : Word) :
    issueCommand w s = .next (raiseError .halted (withCommand w s)) := by
  unfold issueCommand
  cases decode w with
  | ok i => exact exec_halted (s := withCommand w s) h i
  | error _ => simp only [illegalError, h, if_true]

theorem hostRead_sup (width : Nat) (off : Offset) (s : State) : (hostRead width off s).sup = s.sup := by
  unfold hostRead
  split
  · exact afterRead_sup _ s
  · rfl

/-- Settles O52: in HALTED a command only leaves its record, and no other action but the reset writes SUP. -/
theorem onlyHardwareResetLeavesHalted : Obligations.OnlyHardwareResetLeavesHalted := by
  unfold Obligations.OnlyHardwareResetLeavesHalted
  intro s t h hstep
  rcases step_cases hstep with ⟨-, rfl⟩ | ⟨a, rest, hp, ha⟩
  · exact .inl h
  rcases performAction_cases ha with ⟨width, off, -, rfl⟩ | ⟨w, -, hcmd⟩ | ⟨off, r, v, -, -, -, rfl⟩ |
    ⟨-, -, -, -, rfl⟩ | ⟨i, b, -, rfl⟩ | ⟨p, c, -, rfl⟩ | ⟨rfl, rfl⟩
  · exact .inl (by rw [hostRead_sup, h])
  · rw [issueCommand_halted (s := { s with pending := rest }) h] at hcmd
    obtain rfl := Host.Outcome.next.inj hcmd
    exact .inl h
  · exact .inl (by rw [store_sup, h])
  · exact .inl h
  · exact .inl h
  · exact .inl h
  · exact .inr (by rw [hp, List.head?_cons])

/-! ## The state only TICK and the resets write (R49, R53) -/

/-- t has the derived registers, supervisor, snapshot, outputs and TXBUF of s. -/
def SameReadOnly (s t : State) : Prop :=
  t.der = s.der ∧ t.sup = s.sup ∧ t.snap = s.snap ∧ t.out = s.out ∧
    ∀ i, i < 20 → readByte t.mem (0x240 + i) = readByte s.mem (0x240 + i)

theorem SameReadOnly.of_mem_eq {s t : State} (hder : t.der = s.der) (hsup : t.sup = s.sup) (hsnap : t.snap = s.snap)
    (hout : t.out = s.out) (hmem : t.mem = s.mem) : SameReadOnly s t :=
  ⟨hder, hsup, hsnap, hout, fun _ _ => by rw [hmem]⟩

theorem sameReadOnly_afterRead (r : HostReg) (s : State) : SameReadOnly s (afterRead r s) := by
  rcases afterRead_eq r s with e | ⟨-, -, -, e⟩ <;> rw [e] <;> exact .of_mem_eq rfl rfl rfl rfl rfl

/-- A write reaches at most the four bytes of its RXBUF word (R104). -/
theorem readByte_store {s : State} (h : s.mem.wf) (r : HostReg) (v : Word) {a : Nat}
    (ha : ∀ j : Fin 2, r = .rxWord j → a < 0x200 + 4 * j.val ∨ 0x204 + 4 * j.val ≤ a) :
    readByte (store r v s).mem a = readByte s.mem a := by
  cases r with
  | rxWord j =>
    have hout := ha j rfl
    show readByte (writeWord s.mem (rxBase + 4 * j.val) v) a = _
    rw [readByte_writeWord h, rxBase, if_neg (by omega), if_neg (by omega), if_neg (by omega), if_neg (by omega)]
  | _ => rfl

theorem sameReadOnly_store {s : State} (h : s.mem.wf) (r : HostReg) (v : Word) : SameReadOnly s (store r v s) := by
  obtain ⟨hder, hsup, hsnap, hout, -⟩ := store_frame r v s
  exact ⟨hder, hsup, hsnap, hout, fun i _ => readByte_store h r v fun j _ => by omega⟩

theorem sameReadOnly_dmaWrite {s : State} (h : s.mem.wf) (i : Fin 8) (b : Byte) : SameReadOnly s (dmaWrite i b s) := by
  refine ⟨rfl, rfl, rfl, rfl, fun k _ => readByte_writeByte_other h b ?_⟩
  rw [rxBase]
  omega

theorem Effect.sameReadOnly {s t : State} {i : Instr} (h : Effect s i t) (hwf : s.mem.wf) (htick : i ≠ .tick)
    (hswr : i ≠ .swreset) : SameReadOnly s t := by
  cases h with
  | error | nop | result => exact .of_mem_eq rfl rfl rfl rfl rfl
  | load r off x => exact sameReadOnly_afterRead x s
  | store r off x => exact sameReadOnly_store hwf x _
  | tick => exact absurd rfl htick
  | swreset => exact absurd rfl hswr

theorem sameReadOnly_issueCommand {w : Word} {s t : State} (hwf : s.mem.wf) (h : issueCommand w s = .next t)
    (htick : w ≠ encode .tick) (hswr : w ≠ encode .swreset) : SameReadOnly s t := by
  rcases issueCommand_cases h with ⟨i, hd, hexec⟩ | ⟨-, -, rfl⟩
  · have hw := (decode_eq_ok_iff w i).1 hd
    exact (exec_effect hexec).sameReadOnly (s := withCommand w s) hwf (fun e => htick (e ▸ hw)) fun e => hswr (e ▸ hw)
  · exact .of_mem_eq rfl rfl rfl rfl rfl

theorem sameReadOnly_hostRead (width : Nat) (off : Offset) (s : State) : SameReadOnly s (hostRead width off s) := by
  unfold hostRead
  split
  · exact sameReadOnly_afterRead _ s
  · exact .of_mem_eq rfl rfl rfl rfl rfl

/-- Settles O19: a command other than TICK and SWRESET, whose words are the two named, and every other action but the
reset leaves these registers. -/
theorem onlyTickAndResetsWriteReadOnlyState : Obligations.OnlyTickAndResetsWriteReadOnlyState := by
  unfold Obligations.OnlyTickAndResetsWriteReadOnlyState
  intro s t hwf hstep
  rcases step_cases hstep with ⟨-, rfl⟩ | ⟨a, rest, hp, ha⟩
  · exact .inl (SameReadOnly.of_mem_eq rfl rfl rfl rfl rfl)
  rw [hp, List.head?_cons]
  rcases performAction_cases ha with ⟨width, off, -, rfl⟩ | ⟨w, rfl, hcmd⟩ | ⟨off, r, v, -, -, -, rfl⟩ |
    ⟨-, -, -, -, rfl⟩ | ⟨i, b, -, rfl⟩ | ⟨p, c, -, rfl⟩ | ⟨rfl, rfl⟩
  · exact .inl (sameReadOnly_hostRead width off _)
  · by_cases htick : w = encode .tick
    · exact .inr (.inr (.inl (by rw [htick]; rfl)))
    · by_cases hswr : w = encode .swreset
      · exact .inr (.inr (.inr (by rw [hswr]; rfl)))
      · exact .inl (sameReadOnly_issueCommand (s := { s with pending := rest }) hwf hcmd htick hswr)
  · exact .inl (sameReadOnly_store (s := { s with pending := rest }) hwf r v)
  · exact .inl (SameReadOnly.of_mem_eq rfl rfl rfl rfl rfl)
  · exact .inl (sameReadOnly_dmaWrite (s := { s with pending := rest }) hwf i b)
  · exact .inl (SameReadOnly.of_mem_eq rfl rfl rfl rfl rfl)
  · exact .inr (.inl rfl)

end Sys2Proof.Machine
end

section
/-! PROOFS of 10_state.md R43 and 93_implementation_defined.md U1. Two states that differ in unwritten configuration
alone read alike, and every operation keeps them so. -/

namespace Sys2Proof.Machine

/-! ## Must-write registers: what a read gives after a write (R31, R36, R42) -/

theorem mustView_mustStore_same (m : MustReg) (v : Word) (c : ConfigRegs) :
    mustView (mustStore m v c) m = throughType (registerType (.must m)) v := by
  cases m <;> simp [mustView, mustStore, throughType, registerType, signed, unsigned, lowHalf, BitVec.setWidth_eq] <;> rfl

theorem mustView_mustStore_other {m k : MustReg} (h : k ≠ m) (v : Word) (c : ConfigRegs) :
    mustView (mustStore m v c) k = mustView c k := by
  cases m <;> cases k <;> first | rfl | exact absurd rfl h

theorem index_injective : Function.Injective MustReg.index := by
  intro m k h
  cases m <;> cases k <;> first | rfl | exact absurd h (by decide)

/-- A write marks its register and no other. -/
theorem getLsbD_cfgValidAfterWrite (m : MustReg) (c : BitVec 17) (k : Fin 17) :
    (cfgValidAfterWrite m c).getLsbD k.val = (c.getLsbD k.val || decide (k = m.index)) := by
  rw [cfgValidAfterWrite, BitVec.getLsbD_or]
  congr 1
  revert k
  cases m <;> decide

theorem signed_injective : Function.Injective signed := fun p q h => by
  have e := congrArg BitVec.toInt h
  rw [toInt_signed, toInt_signed] at e
  exact BitVec.eq_of_toInt_eq e

theorem unsigned_injective {n : Nat} (h : n ≤ 32) : Function.Injective (unsigned (n := n)) := fun p q e => by
  have e := congrArg BitVec.toNat e
  rw [toNat_unsigned h, toNat_unsigned h] at e
  exact BitVec.eq_of_toNat_eq e

/-! ## Configurations that agree where written -/

theorem AgreeWritten.refl (valid : BitVec 17) (c : ConfigRegs) : AgreeWritten valid c c :=
  ⟨rfl, rfl, rfl, rfl, rfl, rfl, rfl, fun _ => rfl, fun _ _ => rfl⟩

/-- Once every register is written, agreeing is being equal. -/
theorem AgreeWritten.eq_of_full {c d : ConfigRegs} (h : AgreeWritten 0x1FFFF#17 c d) : c = d := by
  have hm (m : MustReg) : mustView c m = mustView d m := h.must m (by cases m <;> decide)
  have h16 := unsigned_injective (n := 16) (by omega)
  rcases c
  rcases d
  simp only [ConfigRegs.mk.injEq]
  exact ⟨h.ctrl, signed_injective (hm .rate), h16 (hm .filtCoef), h16 (hm .filtCoefBrake), h16 (hm .tempCoef),
    signed_injective (hm .speedGainNormal), signed_injective (hm .speedGainTurbo), signed_injective (hm .steerGain),
    h.cmdMin, h.cmdMax, signed_injective (hm .tempWarn), signed_injective (hm .tempOff),
    signed_injective (hm .batSlow), signed_injective (hm .batFast), signed_injective (hm .batDead), h.standstill,
    h.revCue, hm .inactTicks, h.serTimeout, h16 (hm .startSent), h16 (hm .consumedSent), hm .tcalMul,
    signed_injective (hm .tcalAdd), h.poSteps, h.tones 1, h.tones 2, h.tones 3, h.tones 4, h.tones 5⟩

/-- A must-write register stays agreed on, and a write makes the two agree on the register written. -/
theorem AgreeWritten.mustStore {valid : BitVec 17} {c d : ConfigRegs} (h : AgreeWritten valid c d) (m : MustReg)
    (v : Word) : AgreeWritten (cfgValidAfterWrite m valid) (mustStore m v c) (mustStore m v d) := by
  have hmust (k : MustReg) (hk : (cfgValidAfterWrite m valid).getLsbD k.index.val = true) :
      mustView (Machine.mustStore m v c) k = mustView (Machine.mustStore m v d) k := by
    by_cases hkm : k = m
    · rw [hkm, mustView_mustStore_same, mustView_mustStore_same]
    · rw [getLsbD_cfgValidAfterWrite, decide_eq_false (index_injective.ne hkm), Bool.or_false] at hk
      rw [mustView_mustStore_other hkm, mustView_mustStore_other hkm, h.must k hk]
  cases m <;> exact { h with must := hmust }

/-- The tone table after a write: entry 0 is hardwired (R42). -/
theorem toneEntry_storeTone (k j : Fin 6) (v : Word) (c : ConfigRegs) :
    toneEntry (storeTone k v c) j = if j = k ∧ k ≠ 0 then lowHalf v else toneEntry c j := by
  fin_cases k <;> fin_cases j <;> rfl

theorem AgreeWritten.storeTone {valid : BitVec 17} {c d : ConfigRegs} (h : AgreeWritten valid c d) (k : Fin 6)
    (v : Word) : AgreeWritten valid (storeTone k v c) (storeTone k v d) := by
  have htones (j : Fin 6) : toneEntry (Machine.storeTone k v c) j = toneEntry (Machine.storeTone k v d) j := by
    rw [toneEntry_storeTone, toneEntry_storeTone, h.tones j]
  fin_cases k <;> exact { h with tones := htones }

/-! ## States that differ in unwritten configuration -/

/-- The state with another configuration. -/
def withCfg (d : ConfigRegs) (s : State) : State := { s with cfg := d }

theorem SameButUnwritten.refl (s : State) : SameButUnwritten s s := ⟨s.cfg, rfl, .refl _ _⟩

/-- Once the block is configured nothing is left to differ in. -/
theorem SameButUnwritten.eq_of_configured {s t : State} (h : SameButUnwritten s t)
    (hfull : s.ctl.cfgValid = 0x1FFFF#17) : t = s := by
  obtain ⟨d, rfl, hagree⟩ := h
  rw [hfull] at hagree
  rw [← hagree.eq_of_full]

/-- An operation that neither writes nor, as far as the two agree, reads the configuration keeps them so. -/
theorem SameButUnwritten.map {s t : State} (h : SameButUnwritten s t) (f : State → State)
    (hf : ∀ d, AgreeWritten s.ctl.cfgValid s.cfg d → f (withCfg d s) = withCfg d (f s)) (hcfg : (f s).cfg = s.cfg)
    (hvalid : (f s).ctl.cfgValid = s.ctl.cfgValid) : SameButUnwritten (f s) (f t) := by
  obtain ⟨d, rfl, hagree⟩ := h
  exact ⟨d, hf d hagree, by rwa [hcfg, hvalid]⟩

theorem SameButUnwritten.raiseError {s t : State} (h : SameButUnwritten s t) (e : ErrorKind) :
    SameButUnwritten (raiseError e s) (raiseError e t) :=
  h.map (Machine.raiseError e) (fun _ _ => rfl) rfl rfl

theorem SameButUnwritten.setReg {s t : State} (h : SameButUnwritten s t) (i : Reg) (v : Word) :
    SameButUnwritten (setReg i v s) (setReg i v t) :=
  h.map (Machine.setReg i v) (fun _ _ => rfl) rfl rfl

theorem SameButUnwritten.getReg_eq {s t : State} (h : SameButUnwritten s t) (i : Reg) : getReg t i = getReg s i := by
  obtain ⟨d, rfl, -⟩ := h
  rfl

theorem SameButUnwritten.sup_eq {s t : State} (h : SameButUnwritten s t) : t.sup = s.sup := by
  obtain ⟨d, rfl, -⟩ := h
  rfl

theorem SameButUnwritten.state_eq {s t : State} (h : SameButUnwritten s t) {st : SupState} (hs : s.sup.state = st) :
    t.sup.state = st := by
  rw [h.sup_eq, hs]

theorem SameButUnwritten.ctl_eq {s t : State} (h : SameButUnwritten s t) : t.ctl = s.ctl := by
  obtain ⟨d, rfl, -⟩ := h
  rfl

/-! ## Reads (U1) -/

/-- A read of an unwritten must-write register gives the free value, whatever the register holds (U1). -/
theorem unspecifiedView_eq (s : State) (m : MustReg) :
    unspecifiedView s m = throughType (registerType (.must m)) (Config.unspecified s.unspecReads) :=
  mustView_mustStore_same m _ _

/-- No read shows the content of an unwritten register. -/
theorem SameButUnwritten.view_eq {s t : State} (h : SameButUnwritten s t) (r : HostReg) : view t r = view s r := by
  obtain ⟨d, rfl, hagree⟩ := h
  cases r with
  | must m =>
    cases hw : isWritten s m with
    | true =>
      have hw' : isWritten { s with cfg := d } m = true := hw
      rw [view, view, if_pos hw', if_pos hw, hagree.must m hw]
    | false =>
      have hw' : ¬isWritten { s with cfg := d } m = true := by simpa [isWritten] using hw
      rw [view, view, if_neg hw', if_neg (by simp [hw]), unspecifiedView_eq, unspecifiedView_eq]
  | ctrl => exact congrArg unsigned hagree.ctrl.symm
  | cmdMin => exact congrArg signed hagree.cmdMin.symm
  | cmdMax => exact congrArg signed hagree.cmdMax.symm
  | standstill => exact congrArg signed hagree.standstill.symm
  | revCue => exact congrArg signed hagree.revCue.symm
  | serTimeout => exact congrArg unsigned hagree.serTimeout.symm
  | poSteps => exact congrArg unsigned hagree.poSteps.symm
  | toneTab k => exact congrArg unsigned (hagree.tones k).symm
  | _ => rfl

theorem afterRead_cfg (r : HostReg) (s : State) : (afterRead r s).cfg = s.cfg := by
  rcases afterRead_eq r s with e | ⟨-, -, -, e⟩ <;> rw [e]

theorem afterRead_ctl (r : HostReg) (s : State) : (afterRead r s).ctl = s.ctl := by
  rcases afterRead_eq r s with e | ⟨-, -, -, e⟩ <;> rw [e]

theorem afterRead_withCfg (r : HostReg) (d : ConfigRegs) (s : State) :
    afterRead r (withCfg d s) = withCfg d (afterRead r s) := by
  cases r with
  | must m =>
    show (if isWritten s m = true then withCfg d s else _) = withCfg d (if isWritten s m = true then s else _)
    split_ifs <;> rfl
  | _ => rfl

theorem SameButUnwritten.afterRead {s t : State} (h : SameButUnwritten s t) (r : HostReg) :
    SameButUnwritten (afterRead r s) (afterRead r t) :=
  h.map (Machine.afterRead r) (fun d _ => afterRead_withCfg r d s) (afterRead_cfg r s) (by rw [afterRead_ctl])

/-! ## Writes (R31, R43) -/

theorem SameButUnwritten.store {s t : State} (h : SameButUnwritten s t) (r : HostReg) (v : Word) :
    SameButUnwritten (store r v s) (store r v t) := by
  obtain ⟨d, rfl, hagree⟩ := h
  cases r with
  | must m => exact ⟨_, rfl, hagree.mustStore m v⟩
  | toneTab k => exact ⟨_, rfl, hagree.storeTone k v⟩
  | ctrl => exact ⟨_, rfl, { hagree with ctrl := rfl }⟩
  | cmdMin => exact ⟨_, rfl, { hagree with cmdMin := rfl }⟩
  | cmdMax => exact ⟨_, rfl, { hagree with cmdMax := rfl }⟩
  | standstill => exact ⟨_, rfl, { hagree with standstill := rfl }⟩
  | revCue => exact ⟨_, rfl, { hagree with revCue := rfl }⟩
  | serTimeout => exact ⟨_, rfl, { hagree with serTimeout := rfl }⟩
  | poSteps => exact ⟨_, rfl, { hagree with poSteps := rfl }⟩
  | _ => exact ⟨d, rfl, hagree⟩

/-! ## TICK -/

theorem buttonWaitStep_withCfg (d : ConfigRegs) (s : State) :
    buttonWaitStep (withCfg d s) = withCfg d (buttonWaitStep s) := by
  cases hbtn : s.snap.btn with
  | true =>
    rw [buttonWaitStep_held hbtn, buttonWaitStep_held (s := withCfg d s) hbtn]
    rfl
  | false =>
    by_cases hflags : s.ctl.rstFlags.getLsbD 2 = true ∨ s.ctl.rstFlags.getLsbD 3 = true
    · rw [buttonWaitStep_resumes hbtn hflags, buttonWaitStep_resumes (s := withCfg d s) hbtn hflags]
      rfl
    · simp only [not_or, Bool.not_eq_true] at hflags
      rw [buttonWaitStep_powersOff hbtn hflags.1 hflags.2,
        buttonWaitStep_powersOff (s := withCfg d s) hbtn hflags.1 hflags.2]
      rfl

/-- The ramp's length is no must-write register (R42). -/
theorem powerOffStep_withCfg {d : ConfigRegs} {s : State} (h : s.cfg.poSteps = d.poSteps) :
    powerOffStep (withCfg d s) = withCfg d (powerOffStep s) := by
  by_cases hramp : s.sup.poStep.toNat < s.cfg.poSteps.toNat
  · have hramp' : (withCfg d s).sup.poStep.toNat < (withCfg d s).cfg.poSteps.toNat := by rw [h] at hramp; exact hramp
    rw [powerOffStep_ramps hramp, powerOffStep_ramps hramp']
    rfl
  · have hend := Nat.not_lt.1 hramp
    have hend' : (withCfg d s).cfg.poSteps.toNat ≤ (withCfg d s).sup.poStep.toNat := by rw [h] at hend; exact hend
    rw [powerOffStep_halts hend, powerOffStep_halts hend']
    rfl

/-- In a block not yet configured, DISABLED and ENABLED refuse a TICK before it uses a register (R261). -/
theorem exec_tick_unset {s : State} (hc : checksConfig s) (hunset : configured s = false) :
    exec .tick s = .next (raiseError .cfgUnset s) := by
  have hh : s.sup.state ≠ .halted := by rcases hc with h | h <;> simp [h]
  have hpipe : isPipeline s = true := by simpa [isPipeline, checksConfig] using hc
  have herr : tickError s = some .cfgUnset := by rw [tickError, if_pos hpipe, if_pos (by rw [hunset]; rfl)]
  show execTick s = _
  rw [execTick, herr, runCommand_error hh]

/-! ## Commands -/

/-- Two answers that are such states again. -/
def SameAnswer (o p : Outcome) : Prop := ∃ s t, o = .next s ∧ p = .next t ∧ SameButUnwritten s t

theorem SameButUnwritten.answer {s t : State} (h : SameButUnwritten s t) : SameAnswer (.next s) (.next t) :=
  ⟨s, t, rfl, rfl, h⟩

/-- Bodies of a command in two such states: the same error, or such states again. -/
inductive SameBody : Except ErrorKind State → Except ErrorKind State → Prop
  | ok {s t : State} (h : SameButUnwritten s t) : SameBody (.ok s) (.ok t)
  | error (e : ErrorKind) : SameBody (.error e) (.error e)

theorem SameBody.ite {c c' : Prop} [Decidable c] [Decidable c'] {e : ErrorKind} {b b' : Except ErrorKind State}
    (hc : c' ↔ c) (hgo : ¬c → SameBody b b') : SameBody (if c then .error e else b) (if c' then .error e else b') := by
  by_cases h : c
  · rw [if_pos h, if_pos (hc.2 h)]
    exact .error e
  · rw [if_neg h, if_neg (mt hc.1 h)]
    exact hgo h

section Commands

variable {s t : State} (h : SameButUnwritten s t)
include h

theorem SameButUnwritten.runCommand {b b' : Except ErrorKind State} (hb : SameBody b b') :
    SameAnswer (runCommand s b) (runCommand t b') := by
  by_cases hh : s.sup.state = .halted
  · have hh' : t.sup.state = .halted := by rw [h.sup_eq, hh]
    rw [runCommand_halted hh, runCommand_halted hh']
    exact (h.raiseError _).answer
  · have hh' : t.sup.state ≠ .halted := by rwa [h.sup_eq]
    cases hb with
    | ok hok =>
      rw [runCommand_ok hh, runCommand_ok hh']
      exact hok.answer
    | error e =>
      rw [runCommand_error hh, runCommand_error hh']
      exact (h.raiseError e).answer

/-- The same value put into a register. -/
theorem SameButUnwritten.result {d : Reg} {v v' : Word} (hv : v' = v) :
    SameBody (.ok (Machine.setReg d v s)) (.ok (Machine.setReg d v' t)) :=
  .ok (hv ▸ h.setReg d v)

theorem SameButUnwritten.badRange_iff : badRange t = true ↔ badRange s = true := by
  obtain ⟨d, rfl, hagree⟩ := h
  simp only [badRange, hagree.cmdMin, hagree.cmdMax]

theorem SameButUnwritten.isWritten_eq (m : MustReg) : isWritten t m = isWritten s m := by
  obtain ⟨d, rfl, -⟩ := h
  rfl

theorem SameButUnwritten.range_eq : t.cfg.cmdMin = s.cfg.cmdMin ∧ t.cfg.cmdMax = s.cfg.cmdMax := by
  obtain ⟨d, rfl, hagree⟩ := h
  exact ⟨hagree.cmdMin.symm, hagree.cmdMax.symm⟩

/-- FRMCHK compares the frame with two sentinels, which it first checks to be written (R342). -/
theorem SameButUnwritten.sentinels_eq (hstart : isWritten s .startSent = true)
    (hcons : isWritten s .consumedSent = true) :
    t.cfg.startSent = s.cfg.startSent ∧ t.cfg.consumedSent = s.cfg.consumedSent := by
  obtain ⟨d, rfl, hagree⟩ := h
  exact ⟨unsigned_injective (by omega) (hagree.must .startSent hstart).symm,
    unsigned_injective (by omega) (hagree.must .consumedSent hcons).symm⟩

theorem SameButUnwritten.mem_eq : t.mem = s.mem := by
  obtain ⟨d, rfl, -⟩ := h
  rfl

theorem SameButUnwritten.exec_frmchk (rd : Reg) : SameAnswer (exec (.frmchk rd) s) (exec (.frmchk rd) t) := by
  refine h.runCommand (.ite (by rw [h.isWritten_eq, h.isWritten_eq]) fun hset => ?_)
  simp only [Bool.not_eq_true', Bool.not_eq_false, Bool.and_eq_true] at hset
  obtain ⟨hstart, hcons⟩ := h.sentinels_eq hset.1 hset.2
  have hverdict : verdict t = verdict s := by
    unfold verdict frameStart frameSteer frameSpeed frameChecksum
    rw [h.mem_eq, hstart, hcons]
  exact .ite (by rw [hstart, hcons]) fun _ => h.result (by rw [hverdict])

theorem SameButUnwritten.exec_tick : SameAnswer (exec .tick s) (exec .tick t) := by
  by_cases hfull : s.ctl.cfgValid = 0x1FFFF#17
  · obtain rfl := h.eq_of_configured hfull
    obtain ⟨u, hu⟩ := exec_next .tick t
    exact ⟨u, u, hu, hu, .refl u⟩
  have hunset : configured s = false := by simpa [configured] using hfull
  have hunset' : configured t = false := by rwa [configured, h.ctl_eq]
  have hcommit : SameButUnwritten (commitTick s) (commitTick t) := h.map commitTick (fun _ _ => rfl) (by simp) (by simp)
  cases hs : s.sup.state with
  | halted =>
    rw [exec_halted hs, exec_halted (h.state_eq hs)]
    exact (h.raiseError _).answer
  | disabled =>
    rw [exec_tick_unset (.inl hs) hunset, exec_tick_unset (.inl (h.state_eq hs)) hunset']
    exact (h.raiseError _).answer
  | enabled =>
    rw [exec_tick_unset (.inr hs) hunset, exec_tick_unset (.inr (h.state_eq hs)) hunset']
    exact (h.raiseError _).answer
  | btnWait =>
    have ht := h.state_eq hs
    rw [exec_tick_accepted (tickAccepted_of_unchecked (.inl hs)),
      exec_tick_accepted (tickAccepted_of_unchecked (.inl ht)), dispatchTick_btnWait (s := commitTick s) hs,
      dispatchTick_btnWait (s := commitTick t) ht]
    exact (hcommit.map buttonWaitStep (fun d _ => buttonWaitStep_withCfg d _) (by simp) (by simp)).answer
  | poweroff =>
    have ht := h.state_eq hs
    rw [exec_tick_accepted (tickAccepted_of_unchecked (.inr hs)),
      exec_tick_accepted (tickAccepted_of_unchecked (.inr ht)), dispatchTick_poweroff (s := commitTick s) hs,
      dispatchTick_poweroff (s := commitTick t) ht]
    exact (hcommit.map powerOffStep (fun d h => powerOffStep_withCfg h.poSteps) (by simp) (by simp)).answer

theorem SameButUnwritten.exec_ldr (r : Reg) (off : Offset) :
    SameAnswer (exec (.ldr r off) s) (exec (.ldr r off) t) := by
  refine h.runCommand ?_
  cases namedReg off with
  | error e => exact .error e
  | ok x => exact .ok (by rw [h.view_eq]; exact (h.afterRead x).setReg r _)

theorem SameButUnwritten.exec_str (r : Reg) (off : Offset) :
    SameAnswer (exec (.str r off) s) (exec (.str r off) t) := by
  refine h.runCommand ?_
  cases namedReg off with
  | error e => exact .error e
  | ok x =>
    cases hw : isWritable x with
    | true => simpa only [hw, if_true] using SameBody.ok (h.getReg_eq r ▸ h.store x (getReg s r))
    | false => simpa only [hw, Bool.false_eq_true, if_false] using SameBody.error .ro

theorem SameButUnwritten.exec_swreset : SameAnswer (exec .swreset s) (exec .swreset t) := by
  obtain ⟨d, rfl, hagree⟩ := h
  refine SameButUnwritten.runCommand ⟨d, rfl, hagree⟩ (.ite Iff.rfl fun _ => .ok ?_)
  exact SameButUnwritten.refl (resetState (s.ctl.rstFlags ||| 0b0100#4) s)

theorem SameButUnwritten.exec (i : Instr) : SameAnswer (exec i s) (exec i t) := by
  obtain ⟨hmin, hmax⟩ := h.range_eq
  cases i with
  | nop => exact h.runCommand (.ok h)
  | lpf16 | lpf32 | sat16 | xor16 | li | lui | mov => exact h.runCommand (h.result (by simp only [h.getReg_eq]))
  | rl16 rd ra rb =>
    exact h.runCommand (.ite (by rw [h.getReg_eq]) fun _ => h.result (by simp only [h.getReg_eq]))
  | mixr rd ra rb rc =>
    exact h.runCommand (.ite h.badRange_iff fun _ => h.result (by simp only [h.getReg_eq, hmin, hmax]))
  | mixl rd ra rb rc =>
    exact h.runCommand (.ite h.badRange_iff fun _ => h.result (by simp only [h.getReg_eq, hmin, hmax]))
  | frmchk rd => exact h.exec_frmchk rd
  | ldr r off => exact h.exec_ldr r off
  | str r off => exact h.exec_str r off
  | tick => exact h.exec_tick
  | swreset => exact h.exec_swreset

/-! ## Every step -/

theorem SameButUnwritten.issueCommand (w : Word) : SameAnswer (issueCommand w s) (issueCommand w t) := by
  have hcmd : SameButUnwritten (withCommand w s) (withCommand w t) := h.map (withCommand w) (fun _ _ => rfl) rfl rfl
  unfold Machine.issueCommand
  cases decode w with
  | ok i => exact hcmd.exec i
  | error _ =>
    rw [show illegalError t = illegalError s by simp only [illegalError, h.sup_eq]]
    exact (hcmd.raiseError _).answer

theorem SameButUnwritten.withBus (b : BusAnswer) : SameButUnwritten { s with bus := b } { t with bus := b } :=
  h.map (fun s => { s with bus := b }) (fun _ _ => rfl) rfl rfl

theorem SameButUnwritten.hostRead (width : Nat) (off : Offset) :
    SameButUnwritten (hostRead width off s) (hostRead width off t) := by
  unfold Machine.hostRead
  cases busTarget width off with
  | some r =>
    show SameButUnwritten { Machine.afterRead r s with bus := .data (view s r) }
      { Machine.afterRead r t with bus := .data (view t r) }
    rw [h.view_eq]
    exact (h.afterRead r).withBus _
  | none => exact h.withBus _

theorem SameButUnwritten.hostWrite (width : Nat) (off : Offset) (v : Word) :
    SameAnswer (hostWrite width off v s) (hostWrite width off v t) := by
  unfold Machine.hostWrite
  split
  · exact h.issueCommand v
  · split_ifs
    · exact ((h.store _ v).withBus _).answer
    · exact (h.withBus _).answer
  · exact (h.withBus _).answer

theorem SameButUnwritten.hardwareReset : hardwareReset t = hardwareReset s := by
  obtain ⟨d, rfl, -⟩ := h
  rfl

theorem SameButUnwritten.performAction (a : AgentAction) : SameAnswer (performAction a s) (performAction a t) := by
  cases a with
  | hostRead width off => exact (h.hostRead width off).answer
  | hostWrite width off v => exact h.hostWrite width off v
  | dmaWrite i b => exact (h.map (dmaWrite i b) (fun _ _ => rfl) rfl rfl).answer
  | drivePorts p c =>
    exact (h.map (fun s => { s with ports := p, rstCause := c }) (fun _ _ => rfl) rfl rfl).answer
  | hardReset =>
    refine SameButUnwritten.answer ?_
    rw [h.hardwareReset]
    exact .refl _

end Commands

/-- Settles O60: the two states have the same next action, and every action reads alike in both. -/
theorem unwrittenConfigurationIsNeverUsed : Obligations.UnwrittenConfigurationIsNeverUsed := by
  unfold Obligations.UnwrittenConfigurationIsNeverUsed
  intro s t h
  have hpending : t.pending = s.pending := by
    obtain ⟨d, rfl, -⟩ := h
    rfl
  unfold step nextAction
  rw [hpending]
  cases s.pending with
  | nil => exact h.answer
  | cons a rest =>
    exact SameButUnwritten.performAction (h.map (fun s => { s with pending := rest }) (fun _ _ => rfl) rfl rfl) a

end Sys2Proof.Machine
end

section
/-! PROOFS of 20_memory.md. The host window as a map from offsets to registers; what each access of the host and of the
DMA agent does. -/

namespace Sys2Proof.Machine

/-! ## The host window (R101) -/

/-- The registers from 0x020 to 0x09C in the order of their offsets (R33 to R42). -/
def controlOrder : List HostReg :=
  [.cmd, .status, .errCmd, .cfgValid, .irqEn, .irqPend, .rstFlags, .ident, .ctrl, .must .rate, .must .filtCoef,
    .must .filtCoefBrake, .must .tempCoef, .must .speedGainNormal, .must .speedGainTurbo, .must .steerGain, .cmdMin,
    .cmdMax, .must .tempWarn, .must .tempOff, .must .batSlow, .must .batFast, .must .batDead, .standstill, .revCue,
    .must .inactTicks, .serTimeout, .must .startSent, .must .consumedSent, .must .tcalMul, .must .tcalAdd, .poSteps]

/-- The registers from 0x100 to 0x1CC in the order of their offsets (R47 to R57). -/
def statusOrder : List HostReg :=
  [.rlSteer, .rlSpeed, .lpfSteer, .lpfSpeed, .tempFilt, .tempDegc, .steerCmd, .speedCmd, .mixR, .mixL, .cmd1, .cmd2,
    .serCnt, .link, .inactCnt, .fbDiv, .tickCnt, .sup, .speedAvg, .inSteer, .inSpeed, .inFlags, .inMeasR, .inMeasL,
    .inErr, .inTempRaw, .inBat, .tgtR, .tgtL, .outFlags, .buz]

/-- Every register in the order of the offsets. -/
def windowOrder : List HostReg :=
  (List.finRange 8).map HostReg.x ++ controlOrder ++ (List.finRange 6).map HostReg.toneTab ++ statusOrder ++
    (List.finRange 2).map HostReg.rxWord ++ (List.finRange 5).map HostReg.txWord

theorem mem_windowOrder (h : HostReg) : h ∈ windowOrder := by
  cases h with
  | x | toneTab | rxWord | txWord => simp [windowOrder]
  | must m => cases m <;> decide
  | _ => decide

theorem mem_hostRegs (h : HostReg) : h ∈ hostRegs := by
  cases h with
  | x | toneTab | rxWord | txWord => simp [hostRegs]
  | must m => cases m <;> decide
  | _ => decide

/-- The mapped words of the window, counted from its start. -/
def mappedWords : List Nat :=
  List.range 46 ++ List.range' 64 19 ++ List.range' 96 8 ++ List.range' 112 4 ++ List.range' 128 2 ++ List.range' 144 5

theorem windowOrder_offsets : windowOrder.map HostReg.offset = mappedWords.map (4 * ·) := rfl

theorem mappedWords_increasing : mappedWords.Pairwise (· < ·) := by
  have hrange (a n : Nat) : (List.range' a n).Pairwise (· < ·) := List.pairwise_lt_range'
  simp only [mappedWords, List.pairwise_append, List.pairwise_lt_range, hrange, List.mem_append, List.mem_range,
    List.mem_range'_1, true_and]
  and_intros <;> intros <;> omega

theorem mem_mappedWords (k : Nat) :
    k ∈ mappedWords ↔ k < 46 ∨ (64 ≤ k ∧ k < 83) ∨ (96 ≤ k ∧ k < 104) ∨ (112 ≤ k ∧ k < 116) ∨ (128 ≤ k ∧ k < 130) ∨
      (144 ≤ k ∧ k < 149) := by
  simp only [mappedWords, List.mem_append, List.mem_range, List.mem_range'_1, or_assoc, Nat.reduceAdd]

/-- No two registers share an offset. -/
theorem offset_injective : Function.Injective HostReg.offset := fun h g e => by
  have hnodup : (windowOrder.map HostReg.offset).Nodup := by
    rw [windowOrder_offsets]
    exact (mappedWords_increasing.imp fun hlt => ne_of_lt hlt).map (4 * ·) fun a b hne => by omega
  exact List.inj_on_of_nodup_map hnodup (mem_windowOrder h) (mem_windowOrder g) e

/-- The offsets that some register has. -/
theorem exists_offset_eq_iff (n : Nat) : (∃ h : HostReg, h.offset = n) ↔ ∃ k ∈ mappedWords, 4 * k = n := by
  have hmem : (∃ h : HostReg, h.offset = n) ↔ n ∈ windowOrder.map HostReg.offset := by
    simp [List.mem_map, mem_windowOrder]
  rw [hmem, windowOrder_offsets, List.mem_map]

theorem offset_range (h : HostReg) : h.offset < 4096 ∧ h.offset % 4 = 0 := by
  obtain ⟨k, hk, e⟩ := (exists_offset_eq_iff h.offset).1 ⟨h, rfl⟩
  rw [mem_mappedWords] at hk
  omega

theorem hostRegAt_eq_some_iff (off : Offset) (h : HostReg) : hostRegAt off = some h ↔ h.offset = off.toNat := by
  refine ⟨offset_of_hostRegAt, fun e => ?_⟩
  cases ho : hostRegAt off with
  | none => exact absurd e (by simpa using List.find?_eq_none.1 ho h (mem_hostRegs h))
  | some g => rw [offset_injective ((offset_of_hostRegAt ho).trans e.symm)]

theorem hostRegAt_isSome_iff (off : Offset) : (hostRegAt off).isSome = true ↔ ∃ h : HostReg, h.offset = off.toNat := by
  simp only [Option.isSome_iff_exists, hostRegAt_eq_some_iff]

theorem hostRegAt_offset (h : HostReg) : hostRegAt (BitVec.ofNat 12 h.offset) = some h := by
  rw [hostRegAt_eq_some_iff, BitVec.toNat_ofNat, Nat.mod_eq_of_lt (offset_range h).1]

theorem hostRegAt_cmd : hostRegAt 0x020#12 = some .cmd := hostRegAt_offset .cmd

theorem isAligned_of_hostRegAt {off : Offset} {h : HostReg} (e : hostRegAt off = some h) : isAligned off = true := by
  rw [isAligned, ← offset_of_hostRegAt e, (offset_range h).2]
  rfl

/-- The window is 4096 bytes from HSB_BASE on, whatever page it is on (R101, D2). -/
theorem windowOffset_hsbBase_add (off : Offset) : windowOffset (Config.hsbBase + off.toNat) = some off := by
  have hlt := off.isLt
  rw [windowOffset, if_pos (by omega), Nat.add_sub_cancel_left, BitVec.ofNat_toNat, BitVec.setWidth_eq]

/-- Settles O10: the mapped words of the window are those of the registers in offset order, and the places of the
registers are their offsets' own definition. -/
theorem mappedOffsetsAreTheListedOnes : Obligations.MappedOffsetsAreTheListedOnes := by
  unfold Obligations.MappedOffsetsAreTheListedOnes
  refine ⟨fun off => ?_, hostRegAt_offset, fun _ => rfl, fun _ => rfl, fun _ => rfl, fun _ => rfl, by decide, by decide,
    windowOffset_hsbBase_add⟩
  rw [hostRegAt_isSome_iff, exists_offset_eq_iff]
  simp only [mem_mappedWords]
  constructor
  · rintro ⟨k, hk, e⟩
    omega
  · intro h
    exact ⟨off.toNat / 4, by omega, by omega⟩

/-! ## The step -/

theorem step_of_pending {s : State} {a : AgentAction} {rest : List AgentAction} (h : s.pending = a :: rest) :
    step s = performAction a { s with pending := rest } := by
  rw [step, nextAction, h]

theorem hostWrite_cmd (w : Word) (s : State) : hostWrite 32 0x020#12 w s = issueCommand w s := by
  rw [hostWrite, busTarget, if_pos ⟨rfl, by decide⟩, hostRegAt_cmd]

/-- A command word at the head of the pending actions is issued. -/
theorem step_issue {s : State} {w : Word} {rest : List AgentAction} (h : s.pending = issue w :: rest) :
    step s = issueCommand w { s with pending := rest } := by
  rw [step_of_pending h, issue, performAction, hostWrite_cmd]

theorem issueCommand_of_decode {w : Word} {i : Instr} (h : decode w = .ok i) (s : State) :
    issueCommand w s = exec i (withCommand w s) := by
  rw [issueCommand, h]

/-- Settles O8: a write to CMD issues the word, and the decoder's answer runs. -/
theorem stepRunsTheDecodedCommand : Obligations.StepRunsTheDecodedCommand := by
  unfold Obligations.StepRunsTheDecodedCommand
  intro s w i rest hp hd
  rw [step_issue hp, issueCommand_of_decode hd]
  rfl

/-- A word of no row decodes to nothing: what decodes is a word of its command's row. -/
theorem exists_illegal_of_no_match {w : Word} (h : ∀ r ∈ opcodeTable, w &&& r.mask ≠ r.pattern) :
    ∃ e, decode w = .error e := by
  cases hd : decode w with
  | error e => exact ⟨e, rfl⟩
  | ok i =>
    obtain ⟨r, hr, hname, -⟩ := encode_matches_row i
    exact absurd (match_of_decodes hr hd hname.symm) (h r hr)

theorem issueCommand_illegal {w : Word} {e : Illegal} (h : decode w = .error e) {s : State}
    (hh : s.sup.state ≠ .halted) : issueCommand w s = .next (raiseError .illegal (withCommand w s)) := by
  rw [issueCommand, h, illegalError, if_neg hh]

/-- Settles O6: the two errors a word can end in before it runs. -/
theorem refusedWordOnlyRecordsItsError : Obligations.RefusedWordOnlyRecordsItsError := by
  unfold Obligations.RefusedWordOnlyRecordsItsError
  intro s w rest hp
  rw [step_issue hp]
  refine ⟨fun hh hrows => ?_, fun hh => ?_⟩
  · obtain ⟨e, he⟩ := exists_illegal_of_no_match hrows
    rw [issueCommand_illegal (s := { s with pending := rest }) he hh, raiseError_eq]
    rfl
  · rw [issueCommand_halted (s := { s with pending := rest }) hh, raiseError_eq]
    rfl

/-! ## Every run ends (R461, R466, R467) -/

theorem performAction_next (a : AgentAction) (s : State) : ∃ t, performAction a s = .next t := by
  cases a with
  | hostWrite width off v =>
    show ∃ t, hostWrite width off v s = .next t
    unfold hostWrite
    split
    · unfold issueCommand
      split
      · exact exec_next _ _
      · exact ⟨_, rfl⟩
    · split_ifs <;> exact ⟨_, rfl⟩
    · exact ⟨_, rfl⟩
  | _ => exact ⟨_, rfl⟩

theorem Effect.pending_eq {s t : State} {i : Instr} (h : Effect s i t) : t.pending = s.pending := by
  cases h with
  | load r off x => rcases afterRead_eq x s with e | ⟨-, -, -, e⟩ <;> rw [setReg_pending, e]
  | store r off x =>
    obtain ⟨-, -, -, -, -, -, hp, -⟩ := store_frame x (getReg s r) s
    exact hp
  | tick => simp
  | _ => rfl

theorem performAction_pending {a : AgentAction} {s t : State} (h : performAction a s = .next t) :
    t.pending = s.pending := by
  rcases performAction_cases h with ⟨width, off, -, rfl⟩ | ⟨w, -, hcmd⟩ | ⟨off, r, v, -, -, -, rfl⟩ |
    ⟨-, -, -, -, rfl⟩ | ⟨i, b, -, rfl⟩ | ⟨p, c, -, rfl⟩ | ⟨-, rfl⟩
  · unfold hostRead
    split
    · rename_i r _
      rcases afterRead_eq r s with e | ⟨-, -, -, e⟩ <;> rw [e]
    · rfl
  · rcases issueCommand_cases hcmd with ⟨i, -, hexec⟩ | ⟨-, -, rfl⟩
    · exact (exec_effect hexec).pending_eq
    · rfl
  · obtain ⟨-, -, -, -, -, -, hp, -⟩ := store_frame r v s
    exact hp
  · rfl
  · rfl
  · rfl
  · rfl

/-- A step performs the oldest pending action and leaves the others. -/
theorem step_next_tail (s : State) : ∃ t, step s = .next t ∧ t.pending = s.pending.tail := by
  cases hp : s.pending with
  | nil => exact ⟨s, by rw [step, nextAction, hp], hp⟩
  | cons a rest =>
    obtain ⟨t, ht⟩ := performAction_next a { s with pending := rest }
    exact ⟨t, (step_of_pending hp).trans ht, performAction_pending ht⟩

theorem step_of_hostStopped {s : State} (h : s.pending = []) : step s = .next s := by
  rw [step, nextAction, h]

theorem run_succ {s t : State} (h : step s = .next t) (k : Nat) :
    Host.Core.run core (k + 1) s = Host.Core.run core k t := by
  have hcore : core.step s = .next t := h
  simp only [Host.Core.run, hcore]

/-- As many steps as there are pending actions perform all of them. -/
theorem run_pending_length (n : Nat) : ∀ s : State, s.pending.length = n →
    ∃ t, Host.Core.run core n s = .next t ∧ t.pending = [] := by
  induction n with
  | zero => exact fun s hn => ⟨s, rfl, List.length_eq_zero_iff.1 hn⟩
  | succ n ih =>
    intro s hn
    obtain ⟨u, hu, htail⟩ := step_next_tail s
    obtain ⟨t, ht, hp⟩ := ih u (by rw [htail, List.length_tail, hn, Nat.add_sub_cancel])
    exact ⟨t, (run_succ hu n).trans ht, hp⟩

/-- Settles O9: each step takes one action off the list, so the list's length bounds the run. -/
theorem everyStepAnswersANextState : Obligations.EveryStepAnswersANextState := by
  unfold Obligations.EveryStepAnswersANextState
  refine ⟨fun s => ?_, fun s => ?_⟩
  · obtain ⟨t, ht, -⟩ := step_next_tail s
    exact ⟨t, ht⟩
  · obtain ⟨t, ht, hp⟩ := run_pending_length _ s rfl
    exact ⟨t, ht, hp, .inr hp, step_of_hostStopped hp⟩

end Sys2Proof.Machine
end

section
/-! PROOFS of 10_state.md R30 to R58. The host view of each register as the number its fields give. -/

namespace Sys2Proof.Machine

/-! ## Patterns as numbers (R11, R31) -/

theorem ofInt_toNat {n : Nat} (p : BitVec n) : BitVec.ofInt n p.toNat = p := by
  rw [BitVec.ofInt_natCast, BitVec.ofNat_toNat, BitVec.setWidth_eq]

theorem unsigned_eq_ofInt {n : Nat} (p : BitVec n) : unsigned p = BitVec.ofInt 32 p.toNat := by
  rw [BitVec.ofInt_natCast, BitVec.ofNat_toNat, unsigned]

/-- A concatenation shifts its left part and adds the right one. -/
theorem toNat_append_eq_add {m n : Nat} (x : BitVec m) (y : BitVec n) :
    (x ++ y).toNat = x.toNat * 2 ^ n + y.toNat := by
  rw [BitVec.toNat_append, Nat.shiftLeft_eq, Nat.mul_comm, Nat.two_pow_add_eq_or_of_lt y.isLt]

theorem toNat_bit (b : Bool) : (bit b).toNat = b.toNat := BitVec.toNat_ofBool b

theorem flagValue_eq (b : Bool) (k : Nat) : flagValue b k = 2 ^ k * (b.toNat : Int) := by
  cases b <;> simp [flagValue]

/-! ## The views of the registers of fields (R34, R48, R52, R54, R57) -/

theorem statusWord_eq (st : Status) :
    statusWord st =
      BitVec.ofInt 32 (flagValue st.err 0 + flagValue st.ovf 1 + 16 * st.errCode.toNat) := by
  rw [statusWord, unsigned_eq_ofInt]
  simp only [toNat_append_eq_add, toNat_bit, flagValue_eq, BitVec.toNat_ofNat]
  congr 1
  omega

theorem linkWord_eq (timeout : Bool) : linkWord timeout = BitVec.ofInt 32 (flagValue timeout 0) := by
  rw [linkWord, unsigned_eq_ofInt, toNat_bit, flagValue_eq]
  congr 1
  omega

theorem supCode_toNat (st : SupState) : ((supCode st).toNat : Int) = supStateValue st := by
  cases st <;> rfl

theorem supWord_eq (s : Supervisor) :
    supWord s = BitVec.ofInt 32 (supStateValue s.state + 256 * s.poStep.toNat) := by
  rw [supWord, unsigned_eq_ofInt, ← supCode_toNat]
  simp only [toNat_append_eq_add, BitVec.toNat_ofNat]
  congr 1
  omega

theorem inFlagsWord_eq (p : PortSample) :
    inFlagsWord p = BitVec.ofInt 32
      (flagValue p.brake 0 + flagValue p.btn 1 + flagValue p.txBusy 2 + flagValue p.extTimeout 3) := by
  rw [inFlagsWord, unsigned_eq_ofInt]
  simp only [toNat_append_eq_add, toNat_bit, flagValue_eq]
  congr 1
  omega

theorem inErrWord_eq (p : PortSample) :
    inErrWord p = BitVec.ofInt 32 (p.errR.toNat + 256 * p.errL.toNat) := by
  rw [inErrWord, unsigned_eq_ofInt, toNat_append_eq_add]
  congr 1
  omega

theorem outFlagsWord_eq (o : Outputs) :
    outFlagsWord o = BitVec.ofInt 32
      (flagValue o.enable 0 + flagValue o.ctrlOpen 1 + flagValue o.powerLatch 2 + flagValue o.ack 3 +
        flagValue o.rxRestart 4 + flagValue o.txStart 5) := by
  rw [outFlagsWord, unsigned_eq_ofInt]
  simp only [toNat_append_eq_add, toNat_bit, flagValue_eq]
  congr 1
  omega

theorem buzWord_eq (b : Buzzer) :
    buzWord b = BitVec.ofInt 32 (b.freq.toNat + 256 * b.pattern.toNat + 65536 * b.toneId.toNat) := by
  rw [buzWord, unsigned_eq_ofInt, toNat_append_eq_add, toNat_append_eq_add]
  congr 1
  omega

theorem readWord_eq (m : Memory) (a : Nat) : readWord m a = BitVec.ofInt 32 (bufferWordValue m a) := by
  have hvalue : bufferWordValue m a = ((readWord m a).toNat : Int) := by
    simp only [bufferWordValue, readWord, toNat_append_eq_add]
    omega
  rw [hvalue, ofInt_toNat]

/-! ## The registers of the configuration (R42) -/

theorem mustView_eq (c : ConfigRegs) (m : MustReg) : mustView c m = BitVec.ofInt 32 (mustValue c m) := by
  cases m with
  | filtCoef | filtCoefBrake | tempCoef | startSent | consumedSent => exact unsigned_eq_ofInt _
  | inactTicks => exact (ofInt_toNat _).symm
  | tcalMul => exact (BitVec.ofInt_toInt).symm
  | _ => rfl

theorem toneView_eq (s : State) (k : Fin 6) :
    unsigned (toneEntry s.cfg k) = BitVec.ofInt 32 (hostValue s (.toneTab k)) := by
  rw [unsigned_eq_ofInt]
  fin_cases k <;> rfl

/-- The view of a must-write register no one has written (U1). -/
theorem unspecified_must_iff (s : State) (m : MustReg) : Unspecified s (.must m) ↔ isWritten s m = false := by
  constructor
  · rintro ⟨k, e, hk⟩
    obtain rfl := HostReg.must.inj e
    exact hk
  · exact fun h => ⟨m, rfl, h⟩

theorem view_must_written {s : State} {m : MustReg} (h : isWritten s m = true) : view s (.must m) = mustView s.cfg m :=
  if_pos h

theorem view_must_unwritten {s : State} {m : MustReg} (h : isWritten s m = false) :
    view s (.must m) = throughType (registerType (.must m)) (Config.unspecified s.unspecReads) := by
  rw [← unspecifiedView_eq]
  exact if_neg (by rw [h]; exact Bool.false_ne_true)

/-- A read of a register shows the number of its fields (R30 to R58, R104, R105). -/
theorem view_eq_hostValue {s : State} {h : HostReg} (hspec : ¬Unspecified s h) :
    view s h = BitVec.ofInt 32 (hostValue s h) := by
  cases h with
  | must m =>
    rw [unspecified_must_iff, Bool.not_eq_false] at hspec
    rw [view_must_written hspec, mustView_eq, hostValue]
  | status => exact statusWord_eq _
  | link => exact linkWord_eq _
  | sup => exact supWord_eq _
  | inFlags => exact inFlagsWord_eq _
  | inErr => exact inErrWord_eq _
  | outFlags => exact outFlagsWord_eq _
  | buz => exact buzWord_eq _
  | rxWord j => exact readWord_eq _ _
  | txWord j => exact readWord_eq _ _
  | toneTab k => exact toneView_eq s k
  | x | cmd | errCmd | inactCnt | tickCnt => exact (ofInt_toNat _).symm
  | tempFilt => exact BitVec.ofInt_toInt.symm
  | cfgValid | irqEn | irqPend | rstFlags | ctrl | serTimeout | poSteps | serCnt | fbDiv => exact unsigned_eq_ofInt _
  | _ => rfl

theorem view_unspecified {s : State} {h : HostReg} (hspec : Unspecified s h) :
    view s h = throughType (registerType h) (Config.unspecified s.unspecReads) := by
  obtain ⟨m, rfl, hm⟩ := hspec
  exact view_must_unwritten hm

theorem afterRead_unspecified {s : State} {h : HostReg} (hspec : Unspecified s h) :
    afterRead h s = { s with unspecReads := s.unspecReads + 1 } := by
  obtain ⟨m, rfl, hm⟩ := hspec
  exact if_neg (by rw [isWritten, hm]; exact Bool.false_ne_true)

theorem afterRead_specified {s : State} {h : HostReg} (hspec : ¬Unspecified s h) : afterRead h s = s := by
  rcases afterRead_eq h s with e | ⟨m, rfl, hm, -⟩
  · exact e
  · exact absurd ((unspecified_must_iff s m).2 hm) hspec

/-! ## LDR and STR (R248, R250) -/

theorem namedReg_of_hostRegAt {off : Offset} {h : HostReg} (e : hostRegAt off = some h) : namedReg off = .ok h :=
  (namedReg_eq_ok_iff off h).2 ⟨isAligned_of_hostRegAt e, e⟩

theorem isAligned_iff (off : Offset) : isAligned off = true ↔ off.toNat % 4 = 0 := beq_iff_eq

theorem namedReg_misaligned {off : Offset} (h : off.toNat % 4 ≠ 0) : namedReg off = .error .align :=
  (namedReg_eq_error_iff off .align).2 (.inl ⟨rfl, by rwa [← Bool.not_eq_true, isAligned_iff]⟩)

theorem namedReg_unmapped {off : Offset} (h : off.toNat % 4 = 0) (e : hostRegAt off = none) :
    namedReg off = .error .noReg :=
  (namedReg_eq_error_iff off .noReg).2 (.inr ⟨rfl, (isAligned_iff off).2 h, e⟩)

section Transfers

variable {s : State} (hh : s.sup.state ≠ .halted) (r : Reg) {off : Offset}
include hh

theorem exec_ldr_error {e : ErrorKind} (h : namedReg off = .error e) :
    exec (.ldr r off) s = .next (raiseError e s) := by
  show execLdr r off s = _
  rw [execLdr, h, runCommand_error hh]

theorem exec_ldr_mapped {h : HostReg} (e : hostRegAt off = some h) :
    exec (.ldr r off) s = .next (setReg r (view s h) (afterRead h s)) := by
  show execLdr r off s = _
  rw [execLdr, namedReg_of_hostRegAt e, runCommand_ok hh]

theorem exec_str_error {e : ErrorKind} (h : namedReg off = .error e) :
    exec (.str r off) s = .next (raiseError e s) := by
  show execStr r off s = _
  rw [execStr, h, runCommand_error hh]

theorem exec_str_writable {h : HostReg} (e : hostRegAt off = some h) (hw : isWritable h = true) :
    exec (.str r off) s = .next (store h (getReg s r) s) := by
  show execStr r off s = _
  rw [execStr, namedReg_of_hostRegAt e]
  simp only [hw, if_true, runCommand_ok hh]

theorem exec_str_readOnly {h : HostReg} (e : hostRegAt off = some h) (hw : isWritable h = false) :
    exec (.str r off) s = .next (raiseError .ro s) := by
  show execStr r off s = _
  rw [execStr, namedReg_of_hostRegAt e]
  simp only [hw, Bool.false_eq_true, if_false, runCommand_error hh]

end Transfers

/-- Settles O29: the two checks in their order, then the view of the register, which its fields or a free value give. -/
theorem ldrReadsTheHostView : Obligations.LdrReadsTheHostView := by
  unfold Obligations.LdrReadsTheHostView
  intro r off s hh
  refine ⟨fun hmis => ?_, fun hal hnone => ?_, fun h e => ⟨fun hspec => ?_, fun hspec => ?_⟩⟩
  · rw [exec_ldr_error hh r (namedReg_misaligned hmis), raiseError_eq]
    rfl
  · rw [exec_ldr_error hh r (namedReg_unmapped hal hnone), raiseError_eq]
    rfl
  · rw [exec_ldr_mapped hh r e, afterRead_specified hspec, view_eq_hostValue hspec]
    rfl
  · refine ⟨Config.unspecified s.unspecReads, ?_⟩
    rw [exec_ldr_mapped hh r e, afterRead_unspecified hspec, view_unspecified hspec]
    rfl

theorem isWritable_iff (h : HostReg) : isWritable h = true ↔ accessOf h = .rw ∨ accessOf h = .w1c := by
  simp only [isWritable, Bool.or_eq_true, beq_iff_eq]

/-- Settles O31: the checks in their order, then the class rule. -/
theorem strWritesByTheClassRule : Obligations.StrWritesByTheClassRule := by
  unfold Obligations.StrWritesByTheClassRule
  intro r off s hh
  refine ⟨fun hmis => ?_, fun hal hnone => ?_, fun h e => ⟨fun hro => ?_, fun hw => ?_⟩⟩
  · rw [exec_str_error hh r (namedReg_misaligned hmis), raiseError_eq]
    rfl
  · rw [exec_str_error hh r (namedReg_unmapped hal hnone), raiseError_eq]
    rfl
  · rw [exec_str_readOnly hh r e ((isWritable_eq_false_iff h).2 hro), raiseError_eq]
    rfl
  · exact exec_str_writable hh r e ((isWritable_iff h).2 hw)

/-- Settles O30: the word in CMD when LDR reads it is the one that was written there. -/
theorem ldrOfCmdReturnsItsOwnWord : Obligations.LdrOfCmdReturnsItsOwnWord := by
  unfold Obligations.LdrOfCmdReturnsItsOwnWord
  intro s r rest hh hp
  have hrun : step s = exec (.ldr r 0x020#12) (withCommand (encode (.ldr r 0x020#12)) { s with pending := rest }) := by
    rw [step_issue hp, issueCommand_of_decode (decodeEncodeRoundTrip _)]
  rw [exec_ldr_mapped (s := withCommand _ { s with pending := rest }) hh r hostRegAt_cmd] at hrun
  exact ⟨_, hrun, getReg_setReg_same r _ _, rfl⟩

/-! ## Host accesses (R102, R110, R405) -/

theorem busTarget_eq_some_iff (width : Nat) (off : Offset) (h : HostReg) :
    busTarget width off = some h ↔ width = 32 ∧ hostRegAt off = some h := by
  unfold busTarget
  split_ifs with hacc
  · simp [hacc.1]
  · simp only [false_iff, not_and]
    exact fun hwidth e => hacc ⟨hwidth, isAligned_of_hostRegAt e⟩

theorem busTarget_eq_none {width : Nat} {off : Offset}
    (h : width ≠ 32 ∨ off.toNat % 4 ≠ 0 ∨ hostRegAt off = none) : busTarget width off = none := by
  rw [Option.eq_none_iff_forall_ne_some]
  intro r e
  obtain ⟨hwidth, hreg⟩ := (busTarget_eq_some_iff width off r).1 e
  rcases h with h | h | h
  · exact h hwidth
  · exact h ((isAligned_iff off).1 (isAligned_of_hostRegAt hreg))
  · rw [h] at hreg
    exact absurd hreg (by simp)

theorem hostRead_of_none {width : Nat} {off : Offset} (h : busTarget width off = none) (s : State) :
    hostRead width off s = busError s := by
  rw [hostRead, h]

theorem hostRead_of_some {width : Nat} {off : Offset} {r : HostReg} (h : busTarget width off = some r) (s : State) :
    hostRead width off s = { afterRead r s with bus := .data (view s r) } := by
  rw [hostRead, h]

theorem hostWrite_of_none {width : Nat} {off : Offset} (h : busTarget width off = none) (v : Word) (s : State) :
    hostWrite width off v s = .next (busError s) := by
  rw [hostWrite, h]

theorem hostWrite_of_some {width : Nat} {off : Offset} {r : HostReg} (h : busTarget width off = some r) (hr : r ≠ .cmd)
    (v : Word) (s : State) :
    hostWrite width off v s =
      if isWritable r = true then .next { store r v s with bus := .done } else .next (busError s) := by
  rw [hostWrite, h]
  cases r with
  | cmd => exact absurd rfl hr
  | _ => rfl

theorem ne_cmd_of_isWritable {r : HostReg} (h : isWritable r = true) : r ≠ .cmd := by
  rintro rfl
  exact absurd h (by decide)

/-- A write outside the window's mapped words, or to a RO register, is a bus error. -/
theorem hostWrite_busError {width : Nat} {off : Offset}
    (h : busTarget width off = none ∨ ∃ r, hostRegAt off = some r ∧ accessOf r = .ro) (v : Word) (s : State) :
    hostWrite width off v s = .next (busError s) := by
  cases ht : busTarget width off with
  | none => exact hostWrite_of_none ht v s
  | some r =>
    obtain ⟨-, hreg⟩ := (busTarget_eq_some_iff width off r).1 ht
    rcases h with h | ⟨q, hq, hro⟩
    · exact absurd (h.symm.trans ht) (by simp)
    · obtain rfl := Option.some.inj (hreg.symm.trans hq)
      have hcmd : r ≠ .cmd := by
        rintro rfl
        exact absurd hro (by decide)
      rw [hostWrite_of_some ht hcmd, (isWritable_eq_false_iff r).2 (.inl hro), if_neg Bool.false_ne_true]

/-- Settles O11: such an access reaches no register, or one that it may not write. -/
theorem busErrorsHaveNoEffect : Obligations.BusErrorsHaveNoEffect := by
  unfold Obligations.BusErrorsHaveNoEffect
  intro s a rest width off v hp hcase
  rw [step_of_pending hp]
  rcases hcase with ⟨rfl | rfl, hbad⟩ | ⟨rfl, hro⟩
  · rw [performAction, hostRead_of_none (busTarget_eq_none hbad)]
    rfl
  · exact hostWrite_busError (.inl (busTarget_eq_none hbad)) v _
  · exact hostWrite_busError (.inr hro) v _

/-- No view shows the actions still to happen. -/
theorem view_withPending (s : State) (l : List AgentAction) (h : HostReg) :
    view { s with pending := l } h = view s h := by
  cases h <;> rfl

/-- A host read changes nothing but the bus answer and the model's count of free values. -/
theorem hostRead_eq {off : Offset} {h : HostReg} (e : hostRegAt off = some h) (s : State) :
    ∃ n, hostRead 32 off s = { s with bus := .data (view s h), unspecReads := n } := by
  rw [hostRead_of_some ((busTarget_eq_some_iff 32 off h).2 ⟨rfl, e⟩)]
  rcases afterRead_eq h s with e | ⟨-, -, -, e⟩ <;> rw [e]
  · exact ⟨s.unspecReads, rfl⟩
  · exact ⟨s.unspecReads + 1, rfl⟩

theorem hostWrite_writable {off : Offset} {h : HostReg} (e : hostRegAt off = some h) (hw : isWritable h = true)
    (v : Word) (s : State) : hostWrite 32 off v s = .next { store h v s with bus := .done } := by
  rw [hostWrite_of_some ((busTarget_eq_some_iff 32 off h).2 ⟨rfl, e⟩) (ne_cmd_of_isWritable hw), if_pos hw]

/-- Settles O12: the read's equation, the view's number or free value, and the write's equation. -/
theorem hostAccessesReachTheRegister : Obligations.HostAccessesReachTheRegister := by
  unfold Obligations.HostAccessesReachTheRegister
  intro s h off v rest e
  refine ⟨fun hp => ?_, view_eq_hostValue, fun hspec => ⟨_, view_unspecified hspec⟩, fun hp hw => ?_⟩
  · obtain ⟨n, hn⟩ := hostRead_eq e { s with pending := rest }
    rw [step_of_pending hp, performAction, hn, view_withPending]
    exact ⟨n, rfl⟩
  · rw [step_of_pending hp, performAction, hostWrite_writable e hw]

/-! ## The writable registers (R252) -/

/-- R252's list. -/
theorem isWritable_iff_listed (h : HostReg) :
    isWritable h = true ↔
      ((∃ i, h = .x i) ∨ h = .status ∨ h = .irqEn ∨ h = .irqPend ∨ h = .ctrl ∨ (∃ m, h = .must m) ∨
        h ∈ [.cmdMin, .cmdMax, .standstill, .revCue, .serTimeout, .poSteps] ∨ (∃ k, k ≠ 0 ∧ h = .toneTab k) ∨
        h ∈ [.rlSteer, .rlSpeed, .lpfSteer, .lpfSpeed, .tempFilt] ∨ (∃ j, h = .rxWord j)) := by
  cases h with
  | toneTab k => by_cases hk : k = 0 <;> simp [isWritable, accessOf, hk]
  | _ => simp [isWritable, accessOf]

/-- Settles O15: R252's list is the class test that STR and the host's write make. -/
theorem writableRegistersAreTheListedOnes : Obligations.WritableRegistersAreTheListedOnes := by
  unfold Obligations.WritableRegistersAreTheListedOnes
  intro h off s r e hh
  rw [← isWritable_iff_listed]
  refine ⟨fun hw => ⟨exec_str_writable hh r e hw, fun v => hostWrite_writable e hw v s⟩,
    fun hw => ⟨?_, fun hcmd v => ?_⟩⟩
  · rw [exec_str_readOnly hh r e (Bool.eq_false_iff.2 hw), raiseError_eq]
    rfl
  · rw [hostWrite_of_some ((busTarget_eq_some_iff 32 off h).2 ⟨rfl, e⟩) hcmd, if_neg hw]
    rfl

end Sys2Proof.Machine
end

section
/-! PROOFS of 10_state.md R31, R36, R43 and 20_memory.md R103, R104: what a write to a register and a DMA
write leave. -/

namespace Sys2Proof.Machine

/-! ## A written register read back (R31) -/

theorem isWritten_store_must (m k : MustReg) (v : Word) (s : State) :
    isWritten (store (.must m) v s) k = (isWritten s k || decide (k = m)) := by
  have hindex : decide (k.index = m.index) = decide (k = m) := by simp only [index_injective.eq_iff]
  rw [← hindex]
  exact getLsbD_cfgValidAfterWrite m s.ctl.cfgValid k.index

theorem view_store_must (m : MustReg) (v : Word) (s : State) :
    view (store (.must m) v s) (.must m) = throughType (registerType (.must m)) v := by
  rw [view_must_written (by rw [isWritten_store_must]; simp)]
  exact mustView_mustStore_same m v s.cfg

theorem throughType_word (v : Word) : throughType (32, false) v = v := by simp [throughType]

theorem throughType_int32 (v : Word) : throughType (32, true) v = v := by simp [throughType]

/-- Settles O16: each RW register stores the low bits its type reads back. -/
theorem writtenRegisterReadsBack : Obligations.WrittenRegisterReadsBack := by
  unfold Obligations.WrittenRegisterReadsBack
  intro s h v hwf hrw
  cases h with
  | must m => exact view_store_must m v s
  | x i => exact (getReg_setReg_same i v s).trans (throughType_word v).symm
  | rxWord j => exact (readWord_writeWord hwf _ v).trans (throughType_word v).symm
  | tempFilt => exact (throughType_int32 v).symm
  | toneTab k =>
    have hk : k ≠ 0 := by
      rintro rfl
      exact absurd hrw (by decide)
    show unsigned (toneEntry (storeTone k v s.cfg) k) = _
    rw [toneEntry_storeTone, if_pos ⟨rfl, hk⟩]
    rfl
  | irqEn | ctrl | poSteps | serTimeout | cmdMin | cmdMax | standstill | revCue => rfl
  | rlSteer | rlSpeed | lpfSteer | lpfSpeed => rfl
  | _ => exact absurd hrw (by simp [accessOf])

/-! ## Every other register after a write (R31, R36, R43, R110) -/

/-- A write to a must-write register changes that field of the configuration and no other. -/
theorem agreeWritten_mustStore (m : MustReg) (v : Word) (c : ConfigRegs) :
    AgreeWritten 0#17 (mustStore m v c) c := by
  have hmust (k : MustReg) (hk : (0#17).getLsbD k.index.val = true) : mustView (mustStore m v c) k = mustView c k :=
    absurd hk (by simp)
  cases m <;> exact { AgreeWritten.refl 0#17 c with must := hmust }

/-- A write to the tone table changes tone entries alone. -/
theorem storeTone_eq (k : Fin 6) (v : Word) (c : ConfigRegs) :
    storeTone k v c =
      { c with
        toneTab1 := toneEntry (storeTone k v c) 1, toneTab2 := toneEntry (storeTone k v c) 2,
        toneTab3 := toneEntry (storeTone k v c) 3, toneTab4 := toneEntry (storeTone k v c) 4,
        toneTab5 := toneEntry (storeTone k v c) 5 } := by
  fin_cases k <;> rfl

theorem readWord_congr {m n : Memory} {a : Nat} (h : ∀ i < 4, readByte m (a + i) = readByte n (a + i)) :
    readWord m a = readWord n a := by
  have h0 : readByte m a = readByte n a := h 0 (by omega)
  rw [readWord, readWord, h0, h 1 (by omega), h 2 (by omega), h 3 (by omega)]

/-- The view of a must-write register depends on its content only if it is written (R43, U1). -/
theorem view_must_congr {s t : State} {m : MustReg} (hvalid : isWritten t m = isWritten s m)
    (hfree : t.unspecReads = s.unspecReads) (hcontent : mustView t.cfg m = mustView s.cfg m) :
    view t (.must m) = view s (.must m) := by
  cases hw : isWritten s m with
  | true => rw [view_must_written hw, view_must_written (hvalid.trans hw), hcontent]
  | false => rw [view_must_unwritten hw, view_must_unwritten (hvalid.trans hw), hfree]

section Others

variable {s : State} {g : HostReg} (v : Word)

theorem view_store_x {i : Reg} (hne : g ≠ .x i) : view (store (.x i) v s) g = view s g := by
  cases g with
  | x j =>
    show getReg (setReg i v s) j = getReg s j
    rw [getReg_setReg, if_neg (by rintro rfl; exact hne rfl)]
  | _ => rfl

theorem view_store_must_other {m : MustReg} (hne : g ≠ .must m) (hvalid : g ≠ .cfgValid) :
    view (store (.must m) v s) g = view s g := by
  have hagree := agreeWritten_mustStore m v s.cfg
  cases g with
  | cfgValid => exact absurd rfl hvalid
  | must k =>
    have hkm : k ≠ m := by rintro rfl; exact hne rfl
    exact view_must_congr (by simp [isWritten_store_must, hkm]) rfl (mustView_mustStore_other hkm v s.cfg)
  | ctrl => exact congrArg unsigned hagree.ctrl
  | cmdMin => exact congrArg signed hagree.cmdMin
  | cmdMax => exact congrArg signed hagree.cmdMax
  | standstill => exact congrArg signed hagree.standstill
  | revCue => exact congrArg signed hagree.revCue
  | serTimeout => exact congrArg unsigned hagree.serTimeout
  | poSteps => exact congrArg unsigned hagree.poSteps
  | toneTab k => exact congrArg unsigned (hagree.tones k)
  | _ => rfl

theorem view_store_toneTab {k : Fin 6} (hne : g ≠ .toneTab k) : view (store (.toneTab k) v s) g = view s g := by
  cases g with
  | toneTab j =>
    have hjk : j ≠ k := by rintro rfl; exact hne rfl
    show unsigned (toneEntry (storeTone k v s.cfg) j) = unsigned (toneEntry s.cfg j)
    rw [toneEntry_storeTone, if_neg fun h => hjk h.1]
  | must m =>
    refine view_must_congr rfl rfl ?_
    show mustView (storeTone k v s.cfg) m = mustView s.cfg m
    rw [storeTone_eq]
    rfl
  | ctrl | cmdMin | cmdMax | standstill | revCue | serTimeout | poSteps =>
    simp only [view, store]
    rw [storeTone_eq]
  | _ => rfl

theorem view_store_rxWord (hwf : s.mem.wf) {j : Fin 2} (hne : g ≠ .rxWord j) :
    view (store (.rxWord j) v s) g = view s g := by
  cases g with
  | rxWord k =>
    have hkj : k ≠ j := by rintro rfl; exact hne rfl
    refine readWord_congr fun i hi => readByte_store hwf (.rxWord j) v fun l hl => ?_
    obtain rfl := HostReg.rxWord.inj hl
    rw [rxBase]
    omega
  | txWord k =>
    refine readWord_congr fun i hi => readByte_store hwf (.rxWord j) v fun l hl => ?_
    rw [txBase]
    omega
  | _ => rfl

/-- Every other register keeps its view; CFGVALID, which a must-write register's write marks, is apart. -/
theorem view_store_other (hwf : s.mem.wf) {h : HostReg} (hw : isWritable h = true) (hne : g ≠ h)
    (hvalid : g ≠ .cfgValid) : view (store h v s) g = view s g := by
  cases h with
  | x i => exact view_store_x v hne
  | must m => exact view_store_must_other v hne hvalid
  | toneTab k => exact view_store_toneTab v hne
  | rxWord j => exact view_store_rxWord v hwf hne
  | status | irqEn | irqPend | ctrl | cmdMin | cmdMax | standstill | revCue | serTimeout | poSteps | rlSteer | rlSpeed |
    lpfSteer | lpfSpeed | tempFilt =>
    cases g with
    | must m => exact view_must_congr rfl rfl rfl
    | _ => first | rfl | exact absurd rfl hne
  | _ => exact absurd hw (by simp [isWritable, accessOf])

end Others

theorem store_cfgValid {h : HostReg} (hm : ∀ m, h ≠ .must m) (v : Word) (s : State) :
    (store h v s).ctl.cfgValid = s.ctl.cfgValid := by
  cases h with
  | must m => exact absurd rfl (hm m)
  | _ => rfl

/-- Settles O17: views, CFGVALID, bytes and what lies outside the block, each by its own law. -/
theorem writeLeavesOtherRegisters : Obligations.WriteLeavesOtherRegisters := by
  unfold Obligations.WriteLeavesOtherRegisters
  intro s h g v hwf hw hne
  obtain ⟨-, -, -, -, hframe⟩ := store_frame h v s
  refine ⟨view_store_other v hwf hw hne, fun hm => store_cfgValid hm v s, ?_,
    fun a ha => readByte_store hwf h v ha, hframe⟩
  rintro m rfl k
  exact getLsbD_cfgValidAfterWrite m _ k

/-! ## Write one to clear (R31, R34, R39) -/

/-- Settles O18: the two W1C rules of the model, and one bit of IRQ_PEND at a time. -/
theorem writeOneClears : Obligations.WriteOneClears := by
  unfold Obligations.WriteOneClears
  exact fun s v => ⟨rfl, rfl, store_irqPend_bit v s, rfl⟩

/-! ## The DMA port (R103, R104) -/

theorem step_dmaWrite {s : State} {i : Fin 8} {b : Byte} {rest : List AgentAction}
    (h : s.pending = .dmaWrite i b :: rest) :
    step s = .next { s with pending := rest, mem := writeByte s.mem (0x200 + i.val) b } :=
  step_of_pending h

/-- Settles O13: the byte written, and the others as they were. -/
theorem dmaWriteSetsOneByte : Obligations.DmaWriteSetsOneByte := by
  unfold Obligations.DmaWriteSetsOneByte
  intro s i b rest hwf hp
  exact ⟨_, step_dmaWrite hp, readByte_writeByte_same hwf _ b, fun a ha => readByte_writeByte_other hwf b ha⟩

/-- The memory after the DMA agent's writes of bytes at addresses. -/
def afterDma (m : Memory) : List (Fin 8 × Byte) → Memory
  | [] => m
  | (i, b) :: ws => afterDma (writeByte m (0x200 + i.val) b) ws

/-- A run of DMA writes performs them in order. -/
theorem run_dmaWrites (ws : List (Fin 8 × Byte)) : ∀ s : State,
    s.pending = ws.map (fun w => .dmaWrite w.1 w.2) →
    Host.Core.run core ws.length s = .next { s with pending := [], mem := afterDma s.mem ws } := by
  induction ws with
  | nil =>
    intro s hp
    rw [List.map_nil] at hp
    rw [← hp]
    rfl
  | cons w ws ih =>
    intro s hp
    rw [List.length_cons, run_succ (step_dmaWrite hp)]
    exact ih _ rfl

theorem readByte_afterDma_other (ws : List (Fin 8 × Byte)) {a : Nat} (ha : ∀ w ∈ ws, a ≠ 0x200 + w.1.val) :
    ∀ m : Memory, m.wf → readByte (afterDma m ws) a = readByte m a := by
  induction ws with
  | nil => exact fun _ _ => rfl
  | cons w ws ih =>
    intro m hm
    rw [List.forall_mem_cons] at ha
    obtain ⟨hw, hws⟩ := ha
    rw [afterDma, ih hws _ (writeByte_wf _ _ hm), readByte_writeByte_other hm _ hw]

/-- Among writes to different addresses each byte written stays. -/
theorem readByte_afterDma_mem (ws : List (Fin 8 × Byte)) (hws : ws.Pairwise fun w u => w.1 ≠ u.1) :
    ∀ m : Memory, m.wf → ∀ w ∈ ws, readByte (afterDma m ws) (0x200 + w.1.val) = w.2 := by
  induction ws with
  | nil => exact fun _ _ _ h => absurd h List.not_mem_nil
  | cons u ws ih =>
    intro m hm w hw
    obtain ⟨hu, hws⟩ := List.pairwise_cons.1 hws
    rcases List.mem_cons.1 hw with rfl | hw
    · have hother : ∀ x ∈ ws, 0x200 + w.1.val ≠ 0x200 + x.1.val := fun x hx e =>
        hu x hx (Fin.ext (by omega))
      rw [afterDma, readByte_afterDma_other ws hother _ (writeByte_wf _ _ hm), readByte_writeByte_same hm]
    · exact ih hws _ (writeByte_wf _ _ hm) w hw

/-- The writes of a frame, byte 0 first. -/
def frameBytes (f : Vector Byte 8) : List (Fin 8 × Byte) := (List.finRange 8).map fun i => (i, f[i])

theorem frameWrites_eq (f : Vector Byte 8) :
    frameWrites f = (frameBytes f).map (fun w => .dmaWrite w.1 w.2) := by
  simp only [frameWrites, frameBytes, List.map_map]
  rfl

theorem frameBytes_pairwise (f : Vector Byte 8) : (frameBytes f).Pairwise fun w u => w.1 ≠ u.1 :=
  List.pairwise_map.2 (List.nodup_finRange 8)

/-- Settles O14: the eight writes go to different addresses, which are RXBUF's. -/
theorem wholeFrameReachesTheBuffer : Obligations.WholeFrameReachesTheBuffer := by
  unfold Obligations.WholeFrameReachesTheBuffer
  intro s f hwf hp
  refine ⟨_, run_dmaWrites (frameBytes f) s (hp.trans (frameWrites_eq f)), fun i => ?_, fun a ha => ?_⟩
  · exact readByte_afterDma_mem _ (frameBytes_pairwise f) _ hwf (i, f[i])
      (List.mem_map_of_mem (List.mem_finRange i))
  · exact readByte_afterDma_other _ (fun w _ => by omega) _ hwf

end Sys2Proof.Machine
end

section
/-! PROOFS of 40_fixed_point.md, 41_register_transfer.md and 44_serial_link.md. The commands that put one result into a
register, outside HALTED, and the pseudo-commands made of them. -/

namespace Sys2Proof.Machine

theorem exec_of_ok {s t : State} {i : Instr} (hh : s.sup.state ≠ .halted) (h : exec i s = runCommand s (.ok t)) :
    exec i s = .next t := by
  rw [h, runCommand_ok hh]

/-! ## Halves of a word (R11) -/

theorem toNat_lowHalf (w : Word) : (lowHalf w).toNat = w.toNat % 65536 := by
  rw [lowHalf, BitVec.extractLsb'_toNat]
  rfl

theorem toNat_highHalf (w : Word) : (highHalf w).toNat = w.toNat / 65536 := by
  rw [highHalf, BitVec.extractLsb'_toNat, Nat.shiftRight_eq_div_pow]
  have := w.isLt
  omega

theorem highHalf_append_lowHalf (w : Word) : highHalf w ++ lowHalf w = w := by
  refine BitVec.eq_of_toNat_eq ?_
  rw [toNat_append_eq_add, toNat_highHalf, toNat_lowHalf]
  omega

/-- Sign extension keeps the low half, which is all that LUI keeps of LI's result. -/
theorem lowHalf_signExtend (p : Half) : lowHalf (p.signExtend 32) = p := by
  refine BitVec.eq_of_getLsbD_eq fun i hi => ?_
  simp only [lowHalf, BitVec.getLsbD_extractLsb', BitVec.getLsbD_signExtend, Nat.zero_add, hi, decide_true,
    Bool.true_and, if_true, show i < 32 by omega]

/-! ## Register transfer (R240 to R246) -/

section Transfer

variable {s : State} (hh : s.sup.state ≠ .halted) (rd ra : Reg) (imm : Half)
include hh

theorem exec_nop : exec .nop s = .next s := exec_of_ok hh rfl

theorem exec_li : exec (.li rd imm) s = .next (setReg rd (imm.signExtend 32) s) := exec_of_ok hh rfl

theorem exec_lui : exec (.lui rd imm) s = .next (setReg rd (imm ++ lowHalf (getReg s rd)) s) := exec_of_ok hh rfl

theorem exec_mov : exec (.mov rd ra) s = .next (setReg rd (getReg s ra) s) := exec_of_ok hh rfl

end Transfer

/-- Settles O28: each result as the number the rule gives. -/
theorem immediatesAndMovesWriteTheirRegister : Obligations.ImmediatesAndMovesWriteTheirRegister := by
  unfold Obligations.ImmediatesAndMovesWriteTheirRegister
  intro rd ra imm s hh
  refine ⟨exec_nop hh, exec_li hh rd imm, ?_, exec_mov hh rd ra⟩
  have hvalue : (imm ++ lowHalf (getReg s rd)).toNat = imm.toNat * 65536 + (getReg s rd).toNat % 65536 := by
    rw [toNat_append_eq_add, toNat_lowHalf]
    rfl
  rw [exec_lui hh, ← hvalue, BitVec.ofNat_toNat, BitVec.setWidth_eq]
  rfl

/-! ## The pseudo-commands (R139) -/

theorem asmReg_of_lt {d : Nat} (hd : d < 8) : asmReg d = ⟨d, hd⟩ := Fin.ext (Nat.mod_eq_of_lt hd)

theorem execAll_cons {s t : State} {i : Instr} (h : exec i s = .next t) (is : List Instr) :
    execAll (i :: is) s = execAll is t := by
  rw [execAll, h]

/-- LI of the low half and LUI of the high half load the whole word. -/
theorem execAll_loadWord {s : State} (hh : s.sup.state ≠ .halted) (d : Reg) (w : Word) (is : List Instr) :
    execAll (.li d (lowHalf w) :: .lui d (highHalf w) :: is) s = execAll is (setReg d w s) := by
  have hlui := exec_lui (s := setReg d ((lowHalf w).signExtend 32) s) hh d (highHalf w)
  rw [getReg_setReg_same, lowHalf_signExtend, highHalf_append_lowHalf, setReg_setReg] at hlui
  rw [execAll_cons (exec_li hh d (lowHalf w)), execAll_cons hlui]

/-- Settles O7: LI32 and WCFG load their word first; WCFG then stores R7 through STR. -/
theorem pseudoCommandsDoWhatTheyExpandTo : Obligations.PseudoCommandsDoWhatTheyExpandTo := by
  unfold Obligations.PseudoCommandsDoWhatTheyExpandTo
  intro s d v h hh hd
  refine ⟨?li32, ?clr, fun hw => ?wcfg⟩
  case li32 =>
    refine (execAll_loadWord hh (asmReg d) (BitVec.ofInt 32 v) []).trans ?_
    rw [asmReg_of_lt hd]
    rfl
  case clr =>
    refine (execAll_cons (exec_li hh (asmReg d) 0#16) []).trans ?_
    rw [asmReg_of_lt hd]
    rfl
  case wcfg =>
    have hstr := exec_str_writable (s := setReg 7 (BitVec.ofInt 32 v) s) hh 7 (hostRegAt_offset h) hw
    rw [getReg_setReg_same] at hstr
    exact (execAll_loadWord hh 7 (BitVec.ofInt 32 v) _).trans (execAll_cons hstr [])

/-! ## LPF16 and LPF32 (R200 to R207) -/

/-- The bounds of a product of a signal in a range and a coefficient of 0 or more. -/
theorem mul_coef_range {x c lo hi : Int} (hc : 0 ≤ c) (hlo : lo ≤ x) (hhi : x ≤ hi) :
    lo * c ≤ x * c ∧ x * c ≤ hi * c :=
  ⟨Int.mul_le_mul_of_nonneg_right hlo hc, Int.mul_le_mul_of_nonneg_right hhi hc⟩

/-- R202: the coefficients add up to 65535, so the sum stays just inside int16. -/
theorem lpf16_sum_range {x c st : Int} (hc : 0 ≤ c) (hc' : c ≤ 65535) (hx : -32768 ≤ x) (hx' : x ≤ 32767)
    (hst : -32768 ≤ st) (hst' : st ≤ 32767) :
    -32768 ≤ x * c / 65536 + (65535 - c) * st / 65536 ∧ x * c / 65536 + (65535 - c) * st / 65536 ≤ 32766 := by
  have hin := mul_coef_range hc hx hx'
  have hstate := mul_coef_range (c := 65535 - c) (by omega) hst hst'
  rw [Int.mul_comm st] at hstate
  generalize x * c = p at *
  generalize (65535 - c) * st = q at *
  omega

/-- R207's range, in the same way. -/
theorem lpf32_sum_range {x c st : Int} (hc : 0 ≤ c) (hc' : c ≤ 65535) (hx : -2147483648 ≤ x) (hx' : x ≤ 2147483647)
    (hst : -2147483648 ≤ st) (hst' : st ≤ 2147483647) :
    -2147450880 ≤ x * c / 65536 + (65535 - c) * st / 65536 ∧
      x * c / 65536 + (65535 - c) * st / 65536 ≤ 2147450879 := by
  have hin := mul_coef_range hc hx hx'
  have hstate := mul_coef_range (c := 65535 - c) (by omega) hst hst'
  rw [Int.mul_comm st] at hstate
  generalize x * c = p at *
  generalize (65535 - c) * st = q at *
  omega

theorem lp32_eq_sat32 (x c st : Int) :
    lp32 x c st = sat32 (x * c / 65536 + (65535 - c) * st / 65536) := rfl

/-- Settles O20: the sum is in range, so its saturation is itself. -/
theorem lpf16FiltersWithoutSaturating : Obligations.Lpf16FiltersWithoutSaturating := by
  unfold Obligations.Lpf16FiltersWithoutSaturating
  intro rd ra rb s hh
  obtain ⟨hx, hx'⟩ := s16_range (lowHalf (getReg s ra))
  obtain ⟨hst, hst'⟩ := s16_range (lowHalf (getReg s rd))
  obtain ⟨hc, hc'⟩ := z16_range (lowHalf (getReg s rb))
  obtain ⟨hlo, hhi⟩ := lpf16_sum_range hc hc' hx hx' hst hst'
  refine ⟨_, rfl, hlo, hhi, exec_of_ok hh ?_⟩
  show execLpf16 rd ra rb s = _
  rw [execLpf16, lp16_eq_sat16, sat16_of_range hlo (by omega)]
  rfl

/-- Settles O22: the same at 32 bits. -/
theorem lpf32FiltersWithoutSaturating : Obligations.Lpf32FiltersWithoutSaturating := by
  unfold Obligations.Lpf32FiltersWithoutSaturating
  intro rd ra rb s hh
  obtain ⟨hx, hx'⟩ := s32_range (getReg s ra)
  obtain ⟨hst, hst'⟩ := s32_range (getReg s rd)
  obtain ⟨hc, hc'⟩ := z16_range (lowHalf (getReg s rb))
  obtain ⟨hlo, hhi⟩ := lpf32_sum_range hc hc' hx hx' hst hst'
  refine ⟨_, rfl, hlo, hhi, exec_of_ok hh ?_⟩
  show execLpf32 rd ra rb s = _
  rw [execLpf32, lp32_eq_sat32, sat32_of_range (by omega) (by omega)]
  rfl

/-! ## The mixers (R220 to R223) -/

theorem exec_mixr {s : State} (hh : s.sup.state ≠ .halted) (rd ra rb rc : Reg) :
    exec (.mixr rd ra rb rc) s =
      if badRange s = true then .next (raiseError .badCfg s)
      else .next (setReg rd (wrap32 (mixR (s16 (lowHalf (getReg s ra))) (s16 (lowHalf (getReg s rb)))
        (s16 (lowHalf (getReg s rc))) (s16 (highHalf (getReg s rc))) (s16 s.cfg.cmdMin) (s16 s.cfg.cmdMax))) s) := by
  show execMixr rd ra rb rc s = _
  rw [execMixr]
  split
  · exact runCommand_error hh _
  · exact runCommand_ok hh _

theorem exec_mixl {s : State} (hh : s.sup.state ≠ .halted) (rd ra rb rc : Reg) :
    exec (.mixl rd ra rb rc) s =
      if badRange s = true then .next (raiseError .badCfg s)
      else .next (setReg rd (wrap32 (mixL (s16 (lowHalf (getReg s ra))) (s16 (lowHalf (getReg s rb)))
        (s16 (lowHalf (getReg s rc))) (s16 (highHalf (getReg s rc))) (s16 s.cfg.cmdMin) (s16 s.cfg.cmdMax))) s) := by
  show execMixl rd ra rb rc s = _
  rw [execMixl]
  split
  · exact runCommand_error hh _
  · exact runCommand_ok hh _

/-- R222 for a command range that is not empty. -/
theorem mixR_eq_max_min {lo hi : Int} (h : lo ≤ hi) (sp st gs gt : Int) :
    mixR sp st gs gt lo hi =
      max lo (min hi (max (-32768) (min 32767 (sp * gs / 16384 - st * gt / 16384)) / 16)) := by
  rw [mixR, clamp_eq_max_min h, sat16_eq_max_min]
  rfl

theorem mixL_eq_max_min {lo hi : Int} (h : lo ≤ hi) (sp st gs gt : Int) :
    mixL sp st gs gt lo hi =
      max lo (min hi (max (-32768) (min 32767 (sp * gs / 16384 + st * gt / 16384)) / 16)) := by
  rw [mixL, clamp_eq_max_min h, sat16_eq_max_min]
  rfl

/-- Settles O25: the two sides of the range check; a range that is not empty puts R222 in its printed form. -/
theorem mixersMixOrRefuseTheRange : Obligations.MixersMixOrRefuseTheRange := by
  unfold Obligations.MixersMixOrRefuseTheRange
  rintro rd ra rb rc s ps pt hh rfl rfl
  rw [exec_mixr hh, exec_mixl hh]
  refine ⟨fun hrange => ?_, fun hempty => ?_⟩
  · have hgood : ¬badRange s = true := by rw [badRange_iff]; omega
    have hrange' : s16 s.cfg.cmdMin ≤ s16 s.cfg.cmdMax := hrange
    rw [if_neg hgood, if_neg hgood, mixR_eq_max_min hrange', mixL_eq_max_min hrange']
    exact ⟨rfl, rfl⟩
  · have hbad := (badRange_iff s).2 hempty
    rw [if_pos hbad, if_pos hbad, raiseError_eq]
    exact ⟨rfl, rfl⟩

/-- Settles O26: the clamp gives the command range; what it clamps is an int16 value shifted right by 4. -/
theorem mixerOutputStaysInRange : Obligations.MixerOutputStaysInRange := by
  unfold Obligations.MixerOutputStaysInRange
  intro sp st gs gt lo hi h
  obtain ⟨hRlo, hRhi⟩ := mixR_range (sp := sp) (st := st) (gs := gs) (gt := gt) h
  obtain ⟨hLlo, hLhi⟩ := mixL_range (sp := sp) (st := st) (gs := gs) (gt := gt) h
  refine ⟨⟨hRlo, hRhi, hLlo, hLhi⟩, fun hlo hhi => ?_⟩
  rw [mixR_eq_max_min h, mixL_eq_max_min h]
  omega

/-- Settles O27: R13's saturation. -/
theorem sat16Saturates : Obligations.Sat16Saturates := by
  unfold Obligations.Sat16Saturates
  intro rd ra s hh
  refine exec_of_ok hh ?_
  show execSat16 rd ra s = _
  rw [execSat16, sat16_eq_max_min]
  rfl

/-! ## XOR16 and FRMCHK (R340, R342, R351) -/

theorem unsigned_xor_lowHalf (v w : Word) :
    unsigned (lowHalf v ^^^ lowHalf w) = BitVec.ofNat 32 ((v.toNat % 65536) ^^^ (w.toNat % 65536)) := by
  rw [unsigned, ← BitVec.ofNat_toNat, BitVec.toNat_xor, toNat_lowHalf, toNat_lowHalf]

/-- Settles O32: the low halves as numbers. -/
theorem xor16XorsTheLowHalves : Obligations.Xor16XorsTheLowHalves := by
  unfold Obligations.Xor16XorsTheLowHalves
  intro rd ra rb s hh
  rw [← unsigned_xor_lowHalf]
  exact exec_of_ok hh rfl

/-- FRMCHK's checks in their order, then the verdict's code (R342). -/
theorem exec_frmchk {s : State} (hh : s.sup.state ≠ .halted) (rd : Reg) :
    exec (.frmchk rd) s =
      if (isWritten s .startSent && isWritten s .consumedSent) = false then .next (raiseError .cfgUnset s)
      else if s.cfg.startSent = s.cfg.consumedSent then .next (raiseError .badCfg s)
      else .next (setReg rd (unsigned (verdictCode (verdict s))) s) := by
  show execFrmchk rd s = _
  rw [execFrmchk]
  simp only [Bool.not_eq_true']
  split_ifs
  · exact runCommand_error hh _
  · exact runCommand_error hh _
  · exact runCommand_ok hh _

/-- The verdict's code as the chain of R351's tests on the fields of the frame. -/
theorem verdictCode_verdict (s : State) :
    unsigned (verdictCode (verdict s)) =
      if frameStart s = s.cfg.startSent then
        (if frameChecksum s = frameStart s ^^^ frameSteer s ^^^ frameSpeed s then 0#32 else 2#32)
      else if frameStart s = s.cfg.consumedSent then 1#32 else 3#32 := by
  unfold verdict
  split_ifs <;> rfl

/-- Settles O33: the two checks on the sentinels and the verdict on the four fields. -/
theorem frmchkClassifiesTheFrame : Obligations.FrmchkClassifiesTheFrame := by
  unfold Obligations.FrmchkClassifiesTheFrame
  rintro rd s _ _ _ _ hh rfl rfl rfl rfl
  rw [exec_frmchk hh, verdictCode_verdict]
  refine ⟨fun hunset => ?_, fun hstart hcons => ?_⟩
  · have hw : (isWritten s .startSent && isWritten s .consumedSent) = false := Bool.and_eq_false_iff.2 hunset
    rw [if_pos hw, raiseError_eq]
    rfl
  · have hw : ¬(isWritten s .startSent && isWritten s .consumedSent) = false := by
      rw [Bool.not_eq_false, Bool.and_eq_true]
      exact ⟨hstart, hcons⟩
    rw [if_neg hw]
    refine ⟨fun hsame => ?_, fun hdiff => ?_⟩
    · rw [if_pos hsame, raiseError_eq]
      rfl
    · rw [if_neg hdiff]
      rfl

end Sys2Proof.Machine
end

section
/-! PROOFS of 42_tick_conditioner_mixer.md R262, R265, R266, 43_supervisor.md R325 and 44_serial_link.md R355. -/

namespace Sys2Proof.Machine

/-! ## The port source (R265, R266) -/

theorem commTimeout_takeCommands_of_ports {s : State} (h : s.cfg.ctrl.getLsbD 0 = false) :
    commTimeout (takeCommands s) = s.snap.extTimeout := by
  rw [takeCommands_of_ports h, commTimeout, if_neg]
  show ¬s.cfg.ctrl.getLsbD 0 = true
  rw [h]
  exact Bool.false_ne_true

/-- A command of the pair, pinned to 0 by the timeout or clamped (R265). -/
theorem toInt_pinned {c : ConfigRegs} (hrange : s16 c.cmdMin ≤ s16 c.cmdMax) (timeout : Bool) (v : Half) :
    (if timeout = true then 0#16 else toCommand c v).toInt =
      if timeout = true then 0 else max c.cmdMin.toInt (min c.cmdMax.toInt v.toInt) := by
  cases timeout with
  | true => rfl
  | false => exact toCommand_toInt c v hrange

/-- Settles O36: stage S1 writes the command pair from the snapshot and nothing of the serial link. -/
theorem portSourceTakesTheClampedPair : Obligations.PortSourceTakesTheClampedPair := by
  unfold Obligations.PortSourceTakesTheClampedPair
  intro s hs hwf hsrc
  have hsrc' : (commitTick s).cfg.ctrl.getLsbD 0 = false := hsrc
  have htake := takeCommands_of_ports hsrc'
  have htime := commTimeout_takeCommands_of_ports hsrc'
  refine ⟨_, exec_tick_pipeline hs, ?cmd1, ?cmd2, ?ctrlOpen, ?serCnt, ?linkTimeout, fun i hi => ?rxBytes, ?rxRestart,
    ?linkLost, ?linkOk, ?resync, ?frameOk⟩
  case cmd1 =>
    rw [pipeline_cmd1, htime, htake]
    exact toInt_pinned hs.range _ _
  case cmd2 =>
    rw [pipeline_cmd2, htime, htake]
    exact toInt_pinned hs.range _ _
  case ctrlOpen => rw [pipeline_ctrlOpen, htime, commitTick_snap]
  case serCnt => rw [pipeline_serCnt, htake, commitTick_serCnt]
  case linkTimeout => rw [pipeline_linkTimeout, htake, commitTick_linkTimeout]
  case rxBytes =>
    rw [rxByte_pipeline (s := commitTick s) hwf hi, htake]
    rfl
  case rxRestart => rw [pipeline_rxRestart, htake, commitTick_rxRestart]
  case linkLost | linkOk | resync | frameOk => rw [pipeline_irqPend_link_bit (by decide), htake, commitTick_ctl]

/-! ## A frame is applied once (R355) -/

/-- A frame whose start marker is CONSUMED_SENT is stale (R351). -/
theorem verdict_stale {s : State} (hne : s.cfg.startSent ≠ s.cfg.consumedSent)
    (h : rxByte s 1 ++ rxByte s 0 = s.cfg.consumedSent) : verdict s = .stale := by
  have hstart : frameStart s = s.cfg.consumedSent := h
  rw [verdict, hstart, if_neg hne.symm, if_pos rfl]

theorem exec_tick_cfg {s t : State} (h : PipelineTick s) (ht : exec .tick s = .next t) : t.cfg = s.cfg := by
  obtain rfl := Host.Outcome.next.inj ((exec_tick_pipeline h).symm.trans ht)
  rw [pipeline_cfg, commitTick_cfg]

theorem exec_tick_mem_wf {s t : State} (h : PipelineTick s) (ht : exec .tick s = .next t) (hwf : s.mem.wf) :
    t.mem.wf := by
  obtain rfl := Host.Outcome.next.inj ((exec_tick_pipeline h).symm.trans ht)
  exact pipeline_mem_wf (s := commitTick s) hwf

/-- Settles O37: the accepting TICK leaves the marker CONSUMED_SENT and the count 0, and the next one finds a stale
frame and counts it as missing, which moves neither the marker nor, below SER_TIMEOUT, the command pair. -/
theorem acceptedFrameIsAppliedOnce : Obligations.AcceptedFrameIsAppliedOnce := by
  unfold Obligations.AcceptedFrameIsAppliedOnce
  intro s hs hwf hsrc hacc
  obtain ⟨t, ht, -, -, hmark, -, hcnt, hlink, -⟩ := acceptedFrameIsTakenAndConsumed s hs hwf hsrc hacc
  have hcfg := exec_tick_cfg hs ht
  rw [← hcfg] at hmark hsrc
  have hstale : verdict t = .stale := verdict_stale (by rw [hcfg]; exact hs.sentinels) hmark
  refine ⟨t, ht, hstale, fun hs' => ?_⟩
  obtain ⟨u, hu, hcnt', hlink', -, -, -, -, -, hrx, hcmd1, hcmd2, -⟩ :=
    missingFrameCountsTowardTheTimeout t hs' (exec_tick_mem_wf hs ht hwf) hsrc (by simp [hstale])
  have hcnt1 : u.der.serCnt.toNat = 1 := by rw [hcnt', hcnt]; rfl
  refine ⟨u, hu, verdict_stale ?_ ?_, BitVec.eq_of_toNat_eq hcnt1, fun htimeout => ?_⟩
  · rw [exec_tick_cfg hs' hu]
    exact hs'.sentinels
  · rw [hrx 1 (by omega), hrx 0 (by omega), exec_tick_cfg hs' hu, hmark]
  · have hon : u.der.linkTimeout = false := by
      rw [hlink', hlink, hcnt1, hcfg, Bool.false_or, decide_eq_false (by omega)]
    rw [hcmd1, hcmd2, hon]
    exact ⟨rfl, rfl⟩

/-! ## The pulses (R54, R262) -/

/-- A TICK that runs no stage leaves the pulses as the commit left them. -/
theorem dispatchTick_pulses_of_unstaged {s : State} (h : s.sup.state ≠ .halted)
    (hno : s.sup.state = .btnWait ∨ s.sup.state = .poweroff ∨ s.snap.btn = true) :
    (dispatchTick s).out.ack = s.out.ack ∧ (dispatchTick s).out.rxRestart = s.out.rxRestart ∧
      (dispatchTick s).out.txStart = s.out.txStart := by
  rcases dispatchTick_cases h with ⟨-, e⟩ | ⟨-, e⟩ | ⟨-, -, e⟩ | ⟨hc, hb, -⟩
  · simp [e]
  · simp [e]
  · simp [e]
  · rcases hno with hs | hs | hs
    · rcases hc with hc | hc <;> exact absurd (hs.symm.trans hc) (by decide)
    · rcases hc with hc | hc <;> exact absurd (hs.symm.trans hc) (by decide)
    · exact absurd (hs.symm.trans hb) (by decide)

/-- A TICK runs the stages or none of them. -/
theorem dispatchTick_staged_or {s : State} (h : s.sup.state ≠ .halted) :
    (s.sup.state = .btnWait ∨ s.sup.state = .poweroff ∨ s.snap.btn = true) ∨
      (checksConfig s ∧ dispatchTick s = pipeline s) := by
  rcases dispatchTick_cases h with ⟨hs, -⟩ | ⟨hs, -⟩ | ⟨-, hb, -⟩ | ⟨hc, -, e⟩
  · exact .inl (.inr (.inl hs))
  · exact .inl (.inl hs)
  · exact .inl (.inr (.inr hb))
  · exact .inr ⟨hc, e⟩

section Pulses

variable {s : State} (h : s.sup.state ≠ .halted)
include h

theorem dispatchTick_ack_off (hack : s.out.ack = false) (ht : (dispatchTick s).sup.state ≠ .enabled) :
    (dispatchTick s).out.ack = false := by
  rcases dispatchTick_staged_or h with hno | ⟨hc, e⟩
  · rw [(dispatchTick_pulses_of_unstaged h hno).1, hack]
  · rw [e] at ht ⊢
    rw [← Bool.not_eq_true, pipeline_ack_iff hc hack]
    exact fun hen => ht hen.2

theorem dispatchTick_rxRestart_off (hrx : s.out.rxRestart = false) (hsrc : s.cfg.ctrl.getLsbD 0 = false) :
    (dispatchTick s).out.rxRestart = false := by
  rcases dispatchTick_staged_or h with hno | ⟨-, e⟩
  · rw [(dispatchTick_pulses_of_unstaged h hno).2.1, hrx]
  · rw [e, pipeline_rxRestart, takeCommands_of_ports hsrc]
    exact hrx

theorem dispatchTick_txStart_off (htx : s.out.txStart = false)
    (hoff : (dispatchTick s).sup.state = .poweroff ∨ s.cfg.ctrl.getLsbD 1 = false) :
    (dispatchTick s).out.txStart = false := by
  rcases dispatchTick_staged_or h with hno | ⟨hc, e⟩
  · rw [(dispatchTick_pulses_of_unstaged h hno).2.2, htx]
  · rw [e] at hoff ⊢
    have hsend : ¬sendsFrame (monitored s) = true := by
      rw [sendsFrame_monitored_iff hc]
      rintro ⟨hon, hfben, -⟩
      rcases hoff with hoff | hoff
      · exact hon hoff
      · exact Bool.false_ne_true (hoff.symm.trans hfben)
    rw [pipeline_txStart, Bool.eq_false_iff.2 hsend, htx]
    rfl

end Pulses

/-- Settles O39: the commit samples, counts and clears the pulses, so that the TICK starts alike whatever they were; the
dispatch sets a pulse again only where its stage runs. -/
theorem acceptedTickSamplesAndCounts : Obligations.AcceptedTickSamplesAndCounts := by
  unfold Obligations.AcceptedTickSamplesAndCounts
  intro s hs
  have hh : (commitTick s).sup.state ≠ .halted := ((tickAccepted_iff s).1 hs).1
  refine ⟨_, exec_tick_accepted hs, ?snap, ?count, dispatchTick_ack_off hh (commitTick_ack s), fun hno => ?unstaged,
    dispatchTick_rxRestart_off hh (commitTick_rxRestart s), dispatchTick_txStart_off hh (commitTick_txStart s),
    fun ack rxRestart txStart => ?alike⟩
  case snap => simp
  case count => simp [BitVec.toNat_add]
  case unstaged =>
    have hkept := dispatchTick_pulses_of_unstaged hh (by simpa using hno)
    simpa using hkept
  case alike => exact exec_tick_accepted ((tickAccepted_iff _).2 ((tickAccepted_iff s).1 hs))

end Sys2Proof.Machine
end

section
/-! PROOFS of 42_tick_conditioner_mixer.md R260 to R263 and 60_exceptions.md R410: what an accepted TICK leaves alone,
its events one bit of IRQ_PEND at a time. -/

namespace Sys2Proof.Machine

/-! ## The events a TICK can raise, and when (R410) -/

/-- The events of the serial link (stage S1). -/
def linkEvents : BitVec 11 :=
  eventBit .linkLost ||| eventBit .linkOk ||| eventBit .resync ||| eventBit .frameOk

/-- The other events of the stages, apart from POWEROFF. -/
def stageEvents : BitVec 11 := eventBit .enabled ||| eventBit .monDis ||| eventBit .fbSent

/-- Bit k of IRQ_PEND, kept by a TICK from s to t or one of the events that the TICK's own branch can raise. -/
def KeepsOrRaises (s t : State) (k : Nat) : Prop :=
  t.ctl.irqPend.getLsbD k = s.ctl.irqPend.getLsbD k ∨
    (s.sup.state = .poweroff ∧ s.cfg.poSteps.toNat ≤ s.sup.poStep.toNat ∧ (eventBit .halt).getLsbD k = true) ∨
    (s.sup.state ≠ .poweroff ∧ t.sup.state = .poweroff ∧ (eventBit .poweroff).getLsbD k = true) ∨
    (checksConfig s ∧ s.snap.btn = true ∧ (eventBit .btn).getLsbD k = true) ∨
    (checksConfig s ∧ s.snap.btn = false ∧
      ((s.cfg.ctrl.getLsbD 0 = true ∧ linkEvents.getLsbD k = true) ∨ stageEvents.getLsbD k = true))

theorem powerOffStep_keepsOrRaises {s : State} (h : s.sup.state = .poweroff) (k : Nat) :
    KeepsOrRaises s (powerOffStep s) k := by
  by_cases hramp : s.sup.poStep.toNat < s.cfg.poSteps.toNat
  · exact .inl (by rw [powerOffStep_ramps hramp])
  · have hend := Nat.not_lt.1 hramp
    cases hk : (eventBit .halt).getLsbD k with
    | true => exact .inr (.inl ⟨h, hend, hk⟩)
    | false => exact .inl (by rw [powerOffStep_halts hend, raiseEvent_irqPend_bit, hk, Bool.or_false])

theorem buttonWaitStep_keepsOrRaises {s : State} (h : s.sup.state = .btnWait) (k : Nat) :
    KeepsOrRaises s (buttonWaitStep s) k := by
  cases hbtn : s.snap.btn with
  | true => exact .inl (by rw [buttonWaitStep_held hbtn])
  | false =>
    by_cases hflags : s.ctl.rstFlags.getLsbD 2 = true ∨ s.ctl.rstFlags.getLsbD 3 = true
    · exact .inl (by rw [buttonWaitStep_resumes hbtn hflags, resume])
    · simp only [not_or, Bool.not_eq_true] at hflags
      have hstep := buttonWaitStep_powersOff hbtn hflags.1 hflags.2
      cases hk : (eventBit .poweroff).getLsbD k with
      | true => exact .inr (.inr (.inl ⟨by simp [h], by rw [hstep, enterPowerOff_state], hk⟩))
      | false => exact .inl (by rw [hstep, enterPowerOff, raiseEvent_irqPend_bit, hk, Bool.or_false])

theorem buttonPress_keepsOrRaises {s : State} (hc : checksConfig s) (hb : s.snap.btn = true) (k : Nat) :
    KeepsOrRaises s (buttonPress s) k := by
  cases hk : (eventBit .btn).getLsbD k with
  | true => exact .inr (.inr (.inr (.inl ⟨hc, hb, hk⟩)))
  | false => exact .inl (by rw [buttonPress, raiseEvent_irqPend_bit, hk, Bool.or_false])

/-- No event of the link is the supervisor's or S8's. -/
theorem not_supervisor_of_linkEvents {k : Nat} (h : linkEvents.getLsbD k = true) :
    (supervisorEvents ||| eventBit .fbSent).getLsbD k = false := by
  have hk := BitVec.lt_of_getLsbD h
  revert h
  interval_cases k <;> decide

theorem stageEvents_bits {k : Nat} (h : stageEvents.getLsbD k = false) :
    (eventBit .enabled).getLsbD k = false ∧ (eventBit .monDis).getLsbD k = false ∧
      (eventBit .fbSent).getLsbD k = false := by
  simpa only [stageEvents, BitVec.getLsbD_or, Bool.or_eq_false_iff, and_assoc] using h

theorem serialEvents_of_not {k : Nat} (hlink : linkEvents.getLsbD k = false)
    (hsent : (eventBit .fbSent).getLsbD k = false) : serialEvents.getLsbD k = false := by
  simp only [linkEvents, serialEvents, BitVec.getLsbD_or, Bool.or_eq_false_iff] at hlink ⊢
  exact ⟨hlink, hsent⟩

theorem pipeline_keepsOrRaises {s : State} (hc : checksConfig s) (hb : s.snap.btn = false) (k : Nat) :
    KeepsOrRaises s (pipeline s) k := by
  have hon : s.sup.state ≠ .poweroff := by rcases hc with h | h <;> simp [h]
  cases hlink : linkEvents.getLsbD k with
  | true =>
    cases hsrc : s.cfg.ctrl.getLsbD 0 with
    | true => exact .inr (.inr (.inr (.inr ⟨hc, hb, .inl ⟨hsrc, hlink⟩⟩)))
    | false =>
      refine .inl ?_
      rw [pipeline_irqPend_link_bit (not_supervisor_of_linkEvents hlink), takeCommands_of_ports hsrc]
  | false =>
    cases hstage : stageEvents.getLsbD k with
    | true => exact .inr (.inr (.inr (.inr ⟨hc, hb, .inr hstage⟩)))
    | false =>
      obtain ⟨hen, hmon, hsent⟩ := stageEvents_bits hstage
      have hbit := pipeline_irqPend_bit hc (serialEvents_of_not hlink hsent)
      by_cases hoff : (pipeline s).sup.state = .poweroff ∧ (eventBit .poweroff).getLsbD k = true
      · exact .inr (.inr (.inl ⟨hon, hoff⟩))
      · refine .inl (Bool.eq_iff_iff.2 (hbit.trans ?_))
        simp [hen, hmon, hoff]

theorem dispatchTick_keepsOrRaises {s : State} (h : s.sup.state ≠ .halted) (k : Nat) :
    KeepsOrRaises s (dispatchTick s) k := by
  rcases dispatchTick_cases h with ⟨hs, e⟩ | ⟨hs, e⟩ | ⟨hc, hb, e⟩ | ⟨hc, hb, e⟩ <;> rw [e]
  · exact powerOffStep_keepsOrRaises hs k
  · exact buttonWaitStep_keepsOrRaises hs k
  · exact buttonPress_keepsOrRaises hc hb k
  · exact pipeline_keepsOrRaises hc hb k

/-! ## No event is lost (R410) -/

theorem takeCommands_irqPend_mono {s : State} {k : Nat} (h : s.ctl.irqPend.getLsbD k = true) :
    (takeCommands s).ctl.irqPend.getLsbD k = true := by
  cases hsrc : s.cfg.ctrl.getLsbD 0 with
  | false => rwa [takeCommands_of_ports hsrc]
  | true =>
    rw [takeCommands_of_serial hsrc]
    by_cases hv : verdict s = .accept
    · rw [serialReceive_accept_irqPend_bit hv, h, Bool.true_or, Bool.true_or]
    · rw [serialReceive_missing_irqPend_bit hv, h, Bool.true_or, Bool.true_or]

/-- An event is the serial link's or the supervisor's, never both. -/
theorem serial_or_supervisor (k : Nat) : serialEvents.getLsbD k = false ∨ supervisorEvents.getLsbD k = false := by
  by_cases hk : k < 11
  · interval_cases k <;> decide
  · exact .inl (BitVec.getLsbD_of_ge _ _ (Nat.not_lt.1 hk))

theorem pipeline_irqPend_mono {s : State} (hc : checksConfig s) {k : Nat} (h : s.ctl.irqPend.getLsbD k = true) :
    (pipeline s).ctl.irqPend.getLsbD k = true := by
  rcases serial_or_supervisor k with hk | hk
  · exact (pipeline_irqPend_bit hc hk).2 (.inl (.inl (.inl h)))
  · rw [pipeline_irqPend_serial_bit hk, takeCommands_irqPend_mono h, Bool.true_or]

theorem buttonWaitStep_irqPend_mono {s : State} {k : Nat} (h : s.ctl.irqPend.getLsbD k = true) :
    (buttonWaitStep s).ctl.irqPend.getLsbD k = true := by
  cases hbtn : s.snap.btn with
  | true => rwa [buttonWaitStep_held hbtn]
  | false =>
    by_cases hflags : s.ctl.rstFlags.getLsbD 2 = true ∨ s.ctl.rstFlags.getLsbD 3 = true
    · rwa [buttonWaitStep_resumes hbtn hflags, resume]
    · simp only [not_or, Bool.not_eq_true] at hflags
      rw [buttonWaitStep_powersOff hbtn hflags.1 hflags.2, enterPowerOff, raiseEvent_irqPend_bit, h, Bool.true_or]

theorem powerOffStep_irqPend_mono {s : State} {k : Nat} (h : s.ctl.irqPend.getLsbD k = true) :
    (powerOffStep s).ctl.irqPend.getLsbD k = true := by
  by_cases hramp : s.sup.poStep.toNat < s.cfg.poSteps.toNat
  · rwa [powerOffStep_ramps hramp]
  · rw [powerOffStep_halts (Nat.not_lt.1 hramp), raiseEvent_irqPend_bit, h, Bool.true_or]

theorem dispatchTick_irqPend_mono {s : State} (hh : s.sup.state ≠ .halted) {k : Nat}
    (h : s.ctl.irqPend.getLsbD k = true) : (dispatchTick s).ctl.irqPend.getLsbD k = true := by
  rcases dispatchTick_cases hh with ⟨-, e⟩ | ⟨-, e⟩ | ⟨-, -, e⟩ | ⟨hc, -, e⟩ <;> rw [e]
  · exact powerOffStep_irqPend_mono h
  · exact buttonWaitStep_irqPend_mono h
  · rw [buttonPress, raiseEvent_irqPend_bit, h, Bool.true_or]
  · exact pipeline_irqPend_mono hc h

/-! ## Registers and bytes (R49, R53, R106) -/

theorem dispatchTick_rstFlags {s : State} (h : s.sup.state ≠ .halted) :
    s.sup.state = .btnWait ∨ (dispatchTick s).ctl.rstFlags = s.ctl.rstFlags := by
  rcases dispatchTick_cases h with ⟨-, e⟩ | ⟨hs, -⟩ | ⟨-, -, e⟩ | ⟨-, -, e⟩
  · exact .inr (by rw [e, powerOffStep_rstFlags])
  · exact .inl hs
  · exact .inr (by rw [e, buttonPress_rstFlags])
  · exact .inr (by rw [e, pipeline_rstFlags])

theorem dispatchTick_powerLatch {s : State} (h : s.sup.state ≠ .halted) :
    s.sup.state = .poweroff ∨ (dispatchTick s).out.powerLatch = s.out.powerLatch := by
  rcases dispatchTick_cases h with ⟨hs, -⟩ | ⟨-, e⟩ | ⟨-, -, e⟩ | ⟨-, -, e⟩
  · exact .inl hs
  · exact .inr (by rw [e, buttonWaitStep_powerLatch])
  · exact .inr (by rw [e, buttonPress_powerLatch])
  · exact .inr (by rw [e, pipeline_powerLatch])

/-- The stages write the start marker of RXBUF and TXBUF, and no other byte. -/
theorem readByte_pipeline_other {s : State} (hwf : s.mem.wf) {a : Nat} (h0 : a ≠ 0x200) (h1 : a ≠ 0x201)
    (ha : a < 0x240 ∨ 0x254 ≤ a) : readByte (pipeline s).mem a = readByte s.mem a := by
  have htake : readByte (takeCommands s).mem a = readByte s.mem a := by
    rcases takeCommands_mem_cases s with e | e <;> rw [e]
    rw [readByte_writeHalf hwf, rxBase, if_neg h0, if_neg h1]
  rw [pipeline_mem, ← htake]
  split_ifs
  · exact readByte_writeFields_other _ (takeCommands_mem_wf hwf) (by rw [txBase, length_frameFields]; exact ha)
  · rfl

theorem readByte_dispatchTick_other {s : State} (h : s.sup.state ≠ .halted) (hwf : s.mem.wf) {a : Nat} (h0 : a ≠ 0x200)
    (h1 : a ≠ 0x201) (ha : a < 0x240 ∨ 0x254 ≤ a) : readByte (dispatchTick s).mem a = readByte s.mem a := by
  rcases dispatchTick_cases h with ⟨-, e⟩ | ⟨-, e⟩ | ⟨-, -, e⟩ | ⟨-, -, e⟩ <;> rw [e]
  · rw [powerOffStep_mem]
  · rw [buttonWaitStep_mem]
  · rw [buttonPress_mem]
  · exact readByte_pipeline_other hwf h0 h1 ha

/-- Settles O40: the registers no stage writes; then each group of events, none of which its rule admits here; then the
latch, the reset flags and the bytes by the TICK's branch. -/
theorem acceptedTickFrame : Obligations.AcceptedTickFrame := by
  unfold Obligations.AcceptedTickFrame
  intro s hs hwf
  have hh : (commitTick s).sup.state ≠ .halted := ((tickAccepted_iff s).1 hs).1
  have hkeep (k : Nat) := dispatchTick_keepsOrRaises hh k
  simp only [KeepsOrRaises, commitTick_ctl, commitTick_sup, commitTick_cfg, commitTick_snap] at hkeep
  have hconf : checksConfig (commitTick s) ↔ checksConfig s := Iff.rfl
  rw [hconf] at hkeep
  refine ⟨_, exec_tick_accepted hs, by simp, by simp, by simp, by simp, by simp, by simp, by simp,
    fun k hk => dispatchTick_irqPend_mono hh hk, ?err, fun hno => ?link, fun hno => ?stage, fun hno => ?btn,
    fun hno => ?poweroff, fun hno => ?halt, by simp, by simp, by simp, by simp, by simp, dispatchTick_rstFlags hh,
    dispatchTick_powerLatch hh, fun a h0 h1 ha => readByte_dispatchTick_other (s := commitTick s) hh hwf h0 h1 ha⟩
  case err => exact (hkeep 0).resolve_right (by simp [eventBit, linkEvents, stageEvents])
  case link =>
    exact ⟨(hkeep 1).resolve_right (by simpa [eventBit, linkEvents, stageEvents] using hno),
      (hkeep 2).resolve_right (by simpa [eventBit, linkEvents, stageEvents] using hno),
      (hkeep 8).resolve_right (by simpa [eventBit, linkEvents, stageEvents] using hno),
      (hkeep 10).resolve_right (by simpa [eventBit, linkEvents, stageEvents] using hno)⟩
  case stage =>
    exact ⟨(hkeep 3).resolve_right (by simpa [eventBit, linkEvents, stageEvents] using hno),
      (hkeep 4).resolve_right (by simpa [eventBit, linkEvents, stageEvents] using hno),
      (hkeep 9).resolve_right (by simpa [eventBit, linkEvents, stageEvents] using hno)⟩
  case btn => exact (hkeep 5).resolve_right (by simpa [eventBit, linkEvents, stageEvents] using hno)
  case poweroff => exact (hkeep 6).resolve_right (by simpa [eventBit, linkEvents, stageEvents] using hno)
  case halt => exact (hkeep 7).resolve_right (by simpa [eventBit, linkEvents, stageEvents] using hno)

end Sys2Proof.Machine
end

section
/-! PROOFS of 43_supervisor.md R325 as a run of commands, and of the resets of 45_system.md and
70_reset_and_hazards.md. -/

namespace Sys2Proof.Machine

/-! ## The power-off sequence as a run (R325) -/

theorem step_issue_tick {s : State} {rest : List AgentAction} (h : s.pending = issue 0x80000000#32 :: rest) :
    step s = exec .tick (withCommand 0x80000000#32 { s with pending := rest }) :=
  (step_issue h).trans (issueCommand_of_decode (decodeEncodeRoundTrip .tick) _)

/-- A TICK command before the end of the ramp plays its next step. -/
theorem step_ramps {s : State} {rest : List AgentAction} (hoff : s.sup.state = .poweroff)
    (hp : s.pending = issue 0x80000000#32 :: rest) (hramp : s.sup.poStep.toNat < s.cfg.poSteps.toNat) :
    ∃ t, step s = .next t ∧ t.sup = { state := .poweroff, poStep := s.sup.poStep + 1#8 } ∧ t.cfg = s.cfg ∧
      t.pending = rest ∧ t.out.buz = { freq := s.sup.poStep, pattern := 0#8, toneId := 6#3 } ∧
      t.out.enable = false := by
  have hexec := (powerOffStepRampsThenHalts (withCommand 0x80000000#32 { s with pending := rest }) hoff).1 hramp
  exact ⟨_, (step_issue_tick hp).trans hexec, rfl, rfl, rfl, rfl, rfl⟩

/-- A TICK command at the end of the ramp halts the block. -/
theorem step_halts {s : State} {rest : List AgentAction} (hoff : s.sup.state = .poweroff)
    (hp : s.pending = issue 0x80000000#32 :: rest) (hend : s.cfg.poSteps.toNat ≤ s.sup.poStep.toNat) :
    ∃ t, step s = .next t ∧ t.sup.state = .halted ∧ t.out.powerLatch = false ∧ t.out.enable = false ∧
      t.ctl.irqPend.getLsbD 7 = true ∧ t.pending = rest := by
  have hexec := (powerOffStepRampsThenHalts (withCommand 0x80000000#32 { s with pending := rest }) hoff).2 hend
  exact ⟨_, (step_issue_tick hp).trans hexec, rfl, rfl, rfl, by simp, rfl⟩

/-- A state on the ramp, with n of its steps to go and a TICK command pending for each and for the halt. -/
structure OnRamp (s : State) (n : Nat) : Prop where
  state : s.sup.state = .poweroff
  togo : s.sup.poStep.toNat + n = s.cfg.poSteps.toNat
  pending : s.pending = List.replicate (n + 1) (issue 0x80000000#32)

/-- One step along the ramp. -/
theorem OnRamp.step {s : State} {n : Nat} (h : OnRamp s (n + 1)) :
    ∃ t, step s = .next t ∧ OnRamp t n ∧ t.sup.poStep.toNat = s.sup.poStep.toNat + 1 ∧
      t.out.buz = { freq := s.sup.poStep, pattern := 0#8, toneId := 6#3 } ∧ t.out.enable = false := by
  have htogo := h.togo
  have hlt := s.cfg.poSteps.isLt
  obtain ⟨t, ht, hsup, hcfg, hpend, hbuz, hen⟩ := step_ramps h.state h.pending (by omega)
  have hstep : t.sup.poStep.toNat = s.sup.poStep.toNat + 1 := by
    rw [hsup, BitVec.toNat_add, BitVec.toNat_ofNat]
    omega
  exact ⟨t, ht, ⟨by rw [hsup], by rw [hstep, hcfg]; omega, hpend⟩, hstep, hbuz, hen⟩

/-- What the k-th TICK along the ramp leaves (R325). -/
structure RampStep (s t : State) (k : Nat) : Prop where
  state : t.sup.state = .poweroff
  poStep : t.sup.poStep.toNat = s.sup.poStep.toNat + k
  sounds : 1 ≤ k → t.out.buz.freq.toNat + 1 = s.sup.poStep.toNat + k ∧ t.out.buz.toneId = 6#3 ∧
    t.out.buz.pattern = 0#8 ∧ t.out.enable = false

/-- k TICK commands along the ramp. -/
theorem OnRamp.run (k : Nat) : ∀ (s : State) (n : Nat), OnRamp s (n + k) →
    ∃ t, Host.Core.run core k s = .next t ∧ OnRamp t n ∧ RampStep s t k := by
  induction k with
  | zero => exact fun s n h => ⟨s, rfl, h, h.state, rfl, fun h => absurd h (by omega)⟩
  | succ k ih =>
    intro s n h
    obtain ⟨u, hu, hramp, hstep, hbuz, hen⟩ := OnRamp.step (n := n + k) h
    obtain ⟨t, ht, hramp', hstate, hstep', hsounds⟩ := ih u n hramp
    refine ⟨t, (run_succ hu k).trans ht, hramp', hstate, by omega, fun _ => ?_⟩
    cases k with
    | zero =>
      obtain rfl := Host.Outcome.next.inj ht
      rw [hbuz]
      exact ⟨rfl, rfl, rfl, hen⟩
    | succ k =>
      obtain ⟨hfreq, hrest⟩ := hsounds (by omega)
      exact ⟨by omega, hrest⟩

/-- One run after another. -/
theorem run_add {s t : State} {k : Nat} (h : Host.Core.run core k s = .next t) (m : Nat) :
    Host.Core.run core (k + m) s = Host.Core.run core m t := by
  induction k generalizing s with
  | zero =>
    obtain rfl := Host.Outcome.next.inj h
    rw [Nat.zero_add]
  | succ k ih =>
    obtain ⟨u, hu, -⟩ := step_next_tail s
    rw [run_succ hu] at h
    rw [Nat.succ_add, run_succ hu, ih h]

/-- Settles O50: the ramp by induction on its steps, and the halting TICK after the last of them. -/
theorem powerOffEndsInHalted : Obligations.PowerOffEndsInHalted := by
  unfold Obligations.PowerOffEndsInHalted
  intro s n hoff htogo hp
  have hramp : OnRamp s n := ⟨hoff, htogo, hp⟩
  refine ⟨fun k hk => ?_, ?_⟩
  · obtain ⟨t, ht, -, hstep⟩ := OnRamp.run k s (n - k) (by rwa [Nat.sub_add_cancel hk])
    exact ⟨t, ht, hstep.state, hstep.poStep, hstep.sounds⟩
  · obtain ⟨u, hu, hend, -⟩ := OnRamp.run n s 0 (by rwa [Nat.zero_add])
    have htogo := hend.togo
    obtain ⟨t, ht, hhalt⟩ := step_halts (rest := []) hend.state hend.pending (by omega)
    exact ⟨t, (run_add hu 1).trans (run_succ ht 0), hhalt⟩

/-! ## The resets (R380, R440 to R444) -/

/-- After a reset every register reads its reset value, RSTFLAGS and the must-write registers apart. -/
theorem view_resetState (flags : BitVec 4) (s : State) {h : HostReg} (hrst : h ≠ .rstFlags) (hmust : ∀ m, h ≠ .must m) :
    view (resetState flags s) h = view State.reset h := by
  cases h with
  | rstFlags => exact absurd rfl hrst
  | must m => exact absurd rfl (hmust m)
  | _ => rfl

theorem isWritten_resetState (flags : BitVec 4) (s : State) (m : MustReg) : isWritten (resetState flags s) m = false :=
  isWritten_reset m

/-- Settles O55: the refusal, and the reset state with RSTFLAGS.SOFT set. -/
theorem swresetResetsAndMarksSoft : Obligations.SwresetResetsAndMarksSoft := by
  unfold Obligations.SwresetResetsAndMarksSoft
  intro s hh
  rw [exec_swreset]
  refine ⟨fun hoff => ?_, fun hoff => ?_⟩
  · rw [if_pos (.inr hoff), raiseError_eq]
    rfl
  · rw [if_neg (by simp [hh, hoff])]
    exact ⟨_, rfl, fun h => view_resetState _ s, isWritten_resetState _ s, rfl, rfl, rfl, rfl, rfl, rfl⟩

/-- Settles O56: the same reset state, with RSTFLAGS by the level on rst_cause_in. -/
theorem hardwareResetResetsEverywhere : Obligations.HardwareResetResetsEverywhere := by
  unfold Obligations.HardwareResetResetsEverywhere
  intro s rest hp
  exact ⟨_, step_of_pending hp, fun h => view_resetState _ _, isWritten_resetState _ _, rfl, rfl, rfl, rfl, rfl, rfl⟩

end Sys2Proof.Machine
end
